-- ==== Sys2Proof/Word.lean ====
section
/-!
DEFINITION. The bit-vector types of the block (spec/00_scope.md R10): bytes, words, nibbles and 12-bit addresses.
Every value is unsigned; nothing is ever sign-extended.
-/
namespace Sys2Proof

/-- A byte: 8 bits (R10). -/
abbrev Byte := BitVec 8

/-- A word: 16 bits (R10): an instruction, I, pc, a stack entry. -/
abbrev Word := BitVec 16

/-- A nibble: 4 bits (R10): the fields x, y and n of an instruction (30_encoding R71). -/
abbrev Nibble := BitVec 4

/-- The 12-bit address field nnn of an instruction (R71). -/
abbrev Addr12 := BitVec 12

/-- A register field: selects one of V0..VF; every value 0..15 is legal (30_encoding R74). -/
abbrev Reg := Nibble

end Sys2Proof
end

