-- ==== Sys2Proof/Machine/Flags.lean ====
section
/-!
DEFINITION. What the flag-writing instructions put into VF (10_state R24): each value is 1 or 0.
-/
namespace Sys2Proof.Machine

/-- A flag as a byte. -/
def flag (b : Bool) : Byte := if b then 1#8 else 0#8

/-- 8xy4: 1 exactly when the unsigned sum exceeds 255 (43_alu R167). -/
def carryFlag (a b : Byte) : Byte := flag (decide (255 < a.toNat + b.toNat))

/-- 8xy5 and 8xy7: 1 when a >= b, no borrow (43_alu R168, R170). -/
def noBorrowFlag (a b : Byte) : Byte := flag (decide (b.toNat ≤ a.toNat))

/-- 8xy6: bit 0 (43_alu R169). -/
def lowBitFlag (a : Byte) : Byte := a &&& 1#8

/-- 8xyE: bit 7 (43_alu R171). -/
def highBitFlag (a : Byte) : Byte := (a >>> 7) &&& 1#8

end Sys2Proof.Machine
end

