-- ==== Sys2Proof/Config.lean ====
section
/-!
DEFINITION. What the spec leaves to the host or to the environment (00_scope R9): the unknown-opcode policy and the random bytes. Both
are opaque constants: nothing proved about the machine can rest on a value of theirs. FONT, the third point of R9
with a value, is a field of `Session` (Machine/HostOps.lean), since construction alone reads it.
-/
namespace Sys2Proof

/-- What the host chose for an unknown opcode (00_scope R9, 40_cycle R97). -/
inductive UnknownOpcodePolicy where
  /-- an unknown opcode is a fatal fault -/
  | halt
  /-- an unknown opcode is passed over and reported -/
  | skip
deriving DecidableEq, Repr, Inhabited

/-- UNKNOWN_OPCODE_POLICY, fixed for the session, OPEN in the spec (10_state R39, 40_cycle R97). Log 8. -/
opaque Config.unknownOpcodePolicy : UnknownOpcodePolicy

/-- The n-th random byte a Cxkk draws: a FREE VALUE, any byte, with no law that connects two draws (40_cycle R90,
43_alu R172). Applied to the counter `draws` of the state. Log 12. -/
opaque Config.rand : Nat → Byte

end Sys2Proof
end

