-- ==== Sys2Proof/Syntax.lean ====
section
/-!
DEFINITION. The 34 instructions of spec/opcode_table.json (30_encoding R75), one constructor a row. Constructor names follow the decode
procedure of R76. Operand fields have exactly the width the encoding gives them (R71), so an operand out of range cannot be
written; WellFormed.lean holds the checks on numbers before they are typed.
-/
namespace Sys2Proof

/-- An instruction of the original CHIP-8 set (00_scope R1). -/
inductive Instr where
  /-- 00E0 CLS (R111) -/
  | cls
  /-- 00EE RET (R130) -/
  | ret
  /-- 1nnn JP nnn (R131) -/
  | jp (nnn : Addr12)
  /-- 2nnn CALL nnn (R132) -/
  | call (nnn : Addr12)
  /-- 3xkk SE Vx, kk (R133) -/
  | seK (x : Reg) (kk : Byte)
  /-- 4xkk SNE Vx, kk (R134) -/
  | sneK (x : Reg) (kk : Byte)
  /-- 5xy0 SE Vx, Vy (R135) -/
  | seV (x y : Reg)
  /-- 6xkk LD Vx, kk (R161) -/
  | ldK (x : Reg) (kk : Byte)
  /-- 7xkk ADD Vx, kk (R162) -/
  | addK (x : Reg) (kk : Byte)
  /-- 8xy0 LD Vx, Vy (R163) -/
  | ldV (x y : Reg)
  /-- 8xy1 OR Vx, Vy (R164) -/
  | orV (x y : Reg)
  /-- 8xy2 AND Vx, Vy (R165) -/
  | andV (x y : Reg)
  /-- 8xy3 XOR Vx, Vy (R166) -/
  | xorV (x y : Reg)
  /-- 8xy4 ADD Vx, Vy (R167) -/
  | addV (x y : Reg)
  /-- 8xy5 SUB Vx, Vy (R168) -/
  | subV (x y : Reg)
  /-- 8xy6 SHR Vx, Vy (R169); y is decoded and not read -/
  | shr (x y : Reg)
  /-- 8xy7 SUBN Vx, Vy (R170) -/
  | subn (x y : Reg)
  /-- 8xyE SHL Vx, Vy (R171); y is decoded and not read -/
  | shl (x y : Reg)
  /-- 9xy0 SNE Vx, Vy (R136) -/
  | sneV (x y : Reg)
  /-- Annn LD I, nnn (R191) -/
  | ldI (nnn : Addr12)
  /-- Bnnn JP V0, nnn (R137) -/
  | jpV0 (nnn : Addr12)
  /-- Cxkk RND Vx, kk (R172) -/
  | rnd (x : Reg) (kk : Byte)
  /-- Dxyn DRW Vx, Vy, n (R112) -/
  | drw (x y : Reg) (n : Nibble)
  /-- Ex9E SKP Vx (R210) -/
  | skp (x : Reg)
  /-- ExA1 SKNP Vx (R211) -/
  | sknp (x : Reg)
  /-- Fx07 LD Vx, DT (R212) -/
  | ldVDt (x : Reg)
  /-- Fx0A LD Vx, K (R213) -/
  | ldVK (x : Reg)
  /-- Fx15 LD DT, Vx (R214) -/
  | ldDtV (x : Reg)
  /-- Fx18 LD ST, Vx (R215) -/
  | ldStV (x : Reg)
  /-- Fx1E ADD I, Vx (R192) -/
  | addI (x : Reg)
  /-- Fx29 LD F, Vx (R193) -/
  | ldF (x : Reg)
  /-- Fx33 LD B, Vx (R195) -/
  | ldB (x : Reg)
  /-- Fx55 LD [I], Vx (R196) -/
  | stRegs (x : Reg)
  /-- Fx65 LD Vx, [I] (R197) -/
  | ldRegs (x : Reg)
deriving DecidableEq, Repr

end Sys2Proof
end

