-- ==== Sys2Proof/Decode.lean ====
section
/-!
DEFINITION. Decoding (30_encoding R70 to R77): a total function from any word to an instruction or `unknown`, from bytes to an instruction
and the bytes that follow it, and the encoder that lays the fields out by the patterns of R75.
-/
namespace Sys2Proof

/-! ## Fields of a word (R71) -/

/-- op = w[15:12], the instruction family. -/
def opField (w : Word) : Nibble := w.extractLsb' 12 4

/-- x = w[11:8]. -/
def xField (w : Word) : Reg := w.extractLsb' 8 4

/-- y = w[7:4]. -/
def yField (w : Word) : Reg := w.extractLsb' 4 4

/-- n = w[3:0]. -/
def nField (w : Word) : Nibble := w.extractLsb' 0 4

/-- kk = w[7:0]. -/
def kkField (w : Word) : Byte := w.extractLsb' 0 8

/-- nnn = w[11:0]. -/
def nnnField (w : Word) : Addr12 := w.extractLsb' 0 12

/-! ## Decoding a word (R76) -/

/-- What a word decodes to: an instruction, or the name of what refuses it. -/
inductive Decoded where
  /-- the word matches this instruction's row of R75 -/
  | instr (i : Instr)
  /-- the word matches no row (R77): the step raises UnknownOpcode -/
  | unknown (w : Word)
deriving DecidableEq, Repr

/-- Family 0: the two exact words; every other 0nnn word is unknown (R76, R77). -/
def decodeFamily0 (w : Word) : Decoded :=
  if w = 0x00E0#16 then .instr .cls
  else if w = 0x00EE#16 then .instr .ret
  else .unknown w

/-- Family 8: the sub-operation in n (R76). -/
def decodeFamily8 (w : Word) : Decoded :=
  match nField w with
  | 0x0#4 => .instr (.ldV (xField w) (yField w))
  | 0x1#4 => .instr (.orV (xField w) (yField w))
  | 0x2#4 => .instr (.andV (xField w) (yField w))
  | 0x3#4 => .instr (.xorV (xField w) (yField w))
  | 0x4#4 => .instr (.addV (xField w) (yField w))
  | 0x5#4 => .instr (.subV (xField w) (yField w))
  | 0x6#4 => .instr (.shr (xField w) (yField w))
  | 0x7#4 => .instr (.subn (xField w) (yField w))
  | 0xE#4 => .instr (.shl (xField w) (yField w))
  | _ => .unknown w

/-- Family E: the sub-operation in kk (R76). -/
def decodeFamilyE (w : Word) : Decoded :=
  match kkField w with
  | 0x9E#8 => .instr (.skp (xField w))
  | 0xA1#8 => .instr (.sknp (xField w))
  | _ => .unknown w

/-- Family F: the sub-operation in kk (R76). -/
def decodeFamilyF (w : Word) : Decoded :=
  match kkField w with
  | 0x07#8 => .instr (.ldVDt (xField w))
  | 0x0A#8 => .instr (.ldVK (xField w))
  | 0x15#8 => .instr (.ldDtV (xField w))
  | 0x18#8 => .instr (.ldStV (xField w))
  | 0x1E#8 => .instr (.addI (xField w))
  | 0x29#8 => .instr (.ldF (xField w))
  | 0x33#8 => .instr (.ldB (xField w))
  | 0x55#8 => .instr (.stRegs (xField w))
  | 0x65#8 => .instr (.ldRegs (xField w))
  | _ => .unknown w

/-- The decode procedure of R76. For families 5 and 9 the low nibble must be 0 (R75; log 9). -/
def decode (w : Word) : Decoded :=
  match opField w with
  | 0x0#4 => decodeFamily0 w
  | 0x1#4 => .instr (.jp (nnnField w))
  | 0x2#4 => .instr (.call (nnnField w))
  | 0x3#4 => .instr (.seK (xField w) (kkField w))
  | 0x4#4 => .instr (.sneK (xField w) (kkField w))
  | 0x5#4 => if nField w = 0#4 then .instr (.seV (xField w) (yField w)) else .unknown w
  | 0x6#4 => .instr (.ldK (xField w) (kkField w))
  | 0x7#4 => .instr (.addK (xField w) (kkField w))
  | 0x8#4 => decodeFamily8 w
  | 0x9#4 => if nField w = 0#4 then .instr (.sneV (xField w) (yField w)) else .unknown w
  | 0xA#4 => .instr (.ldI (nnnField w))
  | 0xB#4 => .instr (.jpV0 (nnnField w))
  | 0xC#4 => .instr (.rnd (xField w) (kkField w))
  | 0xD#4 => .instr (.drw (xField w) (yField w) (nField w))
  | 0xE#4 => decodeFamilyE w
  | _ => decodeFamilyF w

/-! ## Decoding bytes (R53, R54, R70) -/

/-- A word from the byte at the lower address and the byte after it: big-endian (20_memory R54). -/
def wordOfBytes (hi lo : Byte) : Word := (hi ++ lo : BitVec 16)

/-- The bytes of a word in the order of their addresses (20_memory R54). -/
def bytesOfWord (w : Word) : List Byte := [w.extractLsb' 8 8, w.extractLsb' 0 8]

/-- What a sequence of bytes decodes to. -/
inductive BytesDecoded where
  /-- the first two bytes are this instruction; `rest` follows it -/
  | instr (i : Instr) (rest : List Byte)
  /-- the first two bytes are an unknown word (R77) -/
  | unknown (w : Word) (rest : List Byte)
  /-- fewer than two bytes: no word (R70) -/
  | truncated
deriving DecidableEq, Repr

/-- Every instruction is two bytes (R70). -/
def decodeBytes : List Byte → BytesDecoded
  | hi :: lo :: rest =>
      match decode (wordOfBytes hi lo) with
      | .instr i => .instr i rest
      | .unknown w => .unknown w rest
  | _ => .truncated

/-- The instruction the decoder reads from a word given as a number, bit 0 the least significant bit of the 16-bit word: laid out
big-endian and given to `decodeBytes`. -/
def decodeTableWord (nbits w : Nat) : Option Instr :=
  match decodeBytes (bytesOfWord (BitVec.ofNat 16 (w % 2 ^ nbits))) with
  | .instr i _ => some i
  | .unknown _ _ => none
  | .truncated => none

/-! ## Encoding (R72, R75) -/

/-- Formats NNN. -/
def encodeNnn (op : Nibble) (nnn : Addr12) : Word := (op ++ nnn : BitVec 16)

/-- Formats XKK and X (the sub-operation in kk). -/
def encodeXkk (op : Nibble) (x : Reg) (kk : Byte) : Word := (op ++ x ++ kk : BitVec 16)

/-- Formats XY (the sub-operation in n) and XYN. -/
def encodeXyn (op : Nibble) (x y : Reg) (n : Nibble) : Word := (op ++ x ++ y ++ n : BitVec 16)

/-- The word of an instruction (R75). -/
def encode : Instr → Word
  | .cls => 0x00E0#16
  | .ret => 0x00EE#16
  | .jp a => encodeNnn 0x1#4 a
  | .call a => encodeNnn 0x2#4 a
  | .seK x kk => encodeXkk 0x3#4 x kk
  | .sneK x kk => encodeXkk 0x4#4 x kk
  | .seV x y => encodeXyn 0x5#4 x y 0x0#4
  | .ldK x kk => encodeXkk 0x6#4 x kk
  | .addK x kk => encodeXkk 0x7#4 x kk
  | .ldV x y => encodeXyn 0x8#4 x y 0x0#4
  | .orV x y => encodeXyn 0x8#4 x y 0x1#4
  | .andV x y => encodeXyn 0x8#4 x y 0x2#4
  | .xorV x y => encodeXyn 0x8#4 x y 0x3#4
  | .addV x y => encodeXyn 0x8#4 x y 0x4#4
  | .subV x y => encodeXyn 0x8#4 x y 0x5#4
  | .shr x y => encodeXyn 0x8#4 x y 0x6#4
  | .subn x y => encodeXyn 0x8#4 x y 0x7#4
  | .shl x y => encodeXyn 0x8#4 x y 0xE#4
  | .sneV x y => encodeXyn 0x9#4 x y 0x0#4
  | .ldI a => encodeNnn 0xA#4 a
  | .jpV0 a => encodeNnn 0xB#4 a
  | .rnd x kk => encodeXkk 0xC#4 x kk
  | .drw x y n => encodeXyn 0xD#4 x y n
  | .skp x => encodeXkk 0xE#4 x 0x9E#8
  | .sknp x => encodeXkk 0xE#4 x 0xA1#8
  | .ldVDt x => encodeXkk 0xF#4 x 0x07#8
  | .ldVK x => encodeXkk 0xF#4 x 0x0A#8
  | .ldDtV x => encodeXkk 0xF#4 x 0x15#8
  | .ldStV x => encodeXkk 0xF#4 x 0x18#8
  | .addI x => encodeXkk 0xF#4 x 0x1E#8
  | .ldF x => encodeXkk 0xF#4 x 0x29#8
  | .ldB x => encodeXkk 0xF#4 x 0x33#8
  | .stRegs x => encodeXkk 0xF#4 x 0x55#8
  | .ldRegs x => encodeXkk 0xF#4 x 0x65#8

/-! ## The opcode table (R75) -/

/-- The match column of R75 for the row of an instruction. -/
def Instr.matchWord : Instr → Word
  | .cls => 0x00E0#16 | .ret => 0x00EE#16 | .jp _ => 0x1000#16 | .call _ => 0x2000#16
  | .seK _ _ => 0x3000#16 | .sneK _ _ => 0x4000#16 | .seV _ _ => 0x5000#16 | .ldK _ _ => 0x6000#16
  | .addK _ _ => 0x7000#16 | .ldV _ _ => 0x8000#16 | .orV _ _ => 0x8001#16 | .andV _ _ => 0x8002#16
  | .xorV _ _ => 0x8003#16 | .addV _ _ => 0x8004#16 | .subV _ _ => 0x8005#16 | .shr _ _ => 0x8006#16
  | .subn _ _ => 0x8007#16 | .shl _ _ => 0x800E#16 | .sneV _ _ => 0x9000#16 | .ldI _ => 0xA000#16
  | .jpV0 _ => 0xB000#16 | .rnd _ _ => 0xC000#16 | .drw _ _ _ => 0xD000#16 | .skp _ => 0xE09E#16
  | .sknp _ => 0xE0A1#16 | .ldVDt _ => 0xF007#16 | .ldVK _ => 0xF00A#16 | .ldDtV _ => 0xF015#16
  | .ldStV _ => 0xF018#16 | .addI _ => 0xF01E#16 | .ldF _ => 0xF029#16 | .ldB _ => 0xF033#16
  | .stRegs _ => 0xF055#16 | .ldRegs _ => 0xF065#16

/-- The rows of R75: (match, mask). A word matches a row when `w &&& mask = match`. -/
def opcodeTable : List (Word × Word) :=
  [(0x00E0#16, 0xFFFF#16), (0x00EE#16, 0xFFFF#16), (0x1000#16, 0xF000#16), (0x2000#16, 0xF000#16),
   (0x3000#16, 0xF000#16), (0x4000#16, 0xF000#16), (0x5000#16, 0xF00F#16), (0x6000#16, 0xF000#16),
   (0x7000#16, 0xF000#16), (0x8000#16, 0xF00F#16), (0x8001#16, 0xF00F#16), (0x8002#16, 0xF00F#16)] ++
  [(0x8003#16, 0xF00F#16), (0x8004#16, 0xF00F#16), (0x8005#16, 0xF00F#16), (0x8006#16, 0xF00F#16),
   (0x8007#16, 0xF00F#16), (0x800E#16, 0xF00F#16), (0x9000#16, 0xF00F#16), (0xA000#16, 0xF000#16),
   (0xB000#16, 0xF000#16), (0xC000#16, 0xF000#16), (0xD000#16, 0xF000#16), (0xE09E#16, 0xF0FF#16)] ++
  [(0xE0A1#16, 0xF0FF#16), (0xF007#16, 0xF0FF#16), (0xF00A#16, 0xF0FF#16), (0xF015#16, 0xF0FF#16),
   (0xF018#16, 0xF0FF#16), (0xF01E#16, 0xF0FF#16), (0xF029#16, 0xF0FF#16), (0xF033#16, 0xF0FF#16),
   (0xF055#16, 0xF0FF#16), (0xF065#16, 0xF0FF#16)]

/-- The word matches the row (R75). -/
def matchesRow (w : Word) (row : Word × Word) : Bool := w &&& row.2 == row.1

/-- The match columns of the rows a word matches, in the table's order. -/
def rowsMatching (w : Word) : List Word := ((opcodeTable.filter (matchesRow w)).map (·.1))

end Sys2Proof
end

