-- ==== Sys2Proof/Machine/Memory.lean ====
section
/-!
DEFINITION. The block's one memory (20_memory R50, R57): 4096 bytes, the font table and zero at reset. Held as a list of (address, byte)
pairs in one canonical form: addresses strictly rising and below 4096, and no entry equal to what an unlisted address reads as.
-/
namespace Sys2Proof.Machine

/-! ## Parameters (00_scope R8) -/

/-- MEM_SIZE: addresses 0x000..0xFFF. -/
def memSize : Nat := 4096

/-- FONT_BASE. -/
def fontBase : Nat := 0x050

/-- GLYPH_BYTES: bytes per hexadecimal digit. -/
def glyphBytes : Nat := 5

/-- PROG_BASE: load address and entry pc. -/
def progBase : Nat := 0x200

/-! ## The font (20_memory R66) -/

/-- A value of the parameter FONT (00_scope R9): 16 glyphs of 5 bytes, digits 0..F. -/
abbrev Font := Vector Byte 80

/-- The rows of the standard glyphs. The bytes are the spec's from general knowledge (R66, 92 D12, 93 X1). Log 1: PRESUMED, unsafe. -/
def standardGlyphs : List Byte :=
  [0xF0#8, 0x90#8, 0x90#8, 0x90#8, 0xF0#8, 0x20#8, 0x60#8, 0x20#8, 0x20#8, 0x70#8,
   0xF0#8, 0x10#8, 0xF0#8, 0x80#8, 0xF0#8, 0xF0#8, 0x10#8, 0xF0#8, 0x10#8, 0xF0#8] ++
  [0x90#8, 0x90#8, 0xF0#8, 0x10#8, 0x10#8, 0xF0#8, 0x80#8, 0xF0#8, 0x10#8, 0xF0#8,
   0xF0#8, 0x80#8, 0xF0#8, 0x90#8, 0xF0#8, 0xF0#8, 0x10#8, 0x20#8, 0x40#8, 0x40#8] ++
  [0xF0#8, 0x90#8, 0xF0#8, 0x90#8, 0xF0#8, 0xF0#8, 0x90#8, 0xF0#8, 0x10#8, 0xF0#8,
   0xF0#8, 0x90#8, 0xF0#8, 0x90#8, 0x90#8, 0xE0#8, 0x90#8, 0xE0#8, 0x90#8, 0xE0#8] ++
  [0xF0#8, 0x80#8, 0x80#8, 0x80#8, 0xF0#8, 0xE0#8, 0x90#8, 0x90#8, 0x90#8, 0xE0#8,
   0xF0#8, 0x80#8, 0xF0#8, 0x80#8, 0xF0#8, 0xF0#8, 0x80#8, 0xF0#8, 0x80#8, 0x80#8]

/-- The default of FONT (R66). -/
def fontTable : Font := ⟨standardGlyphs.toArray, rfl⟩

/-! ## Memory -/

/-- Memory as data: the bytes that differ from the reset contents. -/
abbrev Memory := List Host.Cell

/-- What an unlisted address reads as: the reset contents (10_state R35, 20_memory R57) under the default FONT: the font table at
0x050..0x09F, zero elsewhere. A Machine constructed with another FONT lists the bytes that differ (`State.construct`). -/
def Memory.blank (a : Nat) : Byte :=
  if fontBase ≤ a ∧ a < fontBase + 80 then standardGlyphs.getD (a - fontBase) 0#8 else 0#8

/-- The byte at an address. -/
def Memory.read (m : Memory) (a : Nat) : Byte :=
  match m with
  | [] => Memory.blank a
  | c :: rest => if c.1 = a then c.2 else Memory.read rest a

/-- Lists the byte v at address a, in place of an entry for a. -/
def Memory.insert (m : Memory) (a : Nat) (v : Byte) : Memory :=
  match m with
  | [] => [(a, v)]
  | c :: rest =>
      if a < c.1 then (a, v) :: c :: rest
      else if a = c.1 then (a, v) :: rest
      else c :: Memory.insert rest a v

/-- Takes the entry for address a out. -/
def Memory.erase (m : Memory) (a : Nat) : Memory := m.filter (fun c => c.1 != a)

/-- `mem[a] <- v`, keeping the canonical form: a byte equal to what an unlisted address reads as is not listed. -/
def Memory.write (m : Memory) (a : Nat) (v : Byte) : Memory :=
  if v = Memory.blank a then Memory.erase m a else Memory.insert m a v

/-- `mem[a + k] <- bs[k]` for each k, in rising order of addresses. -/
def Memory.writeBytes (m : Memory) (a : Nat) (bs : List Byte) : Memory :=
  match bs with
  | [] => m
  | b :: rest => Memory.writeBytes (Memory.write m a b) (a + 1) rest

/-- `mem[a], mem[a + 1], ..., mem[a + n - 1]`. -/
def Memory.readBytes (m : Memory) (a n : Nat) : List Byte :=
  match n with
  | 0 => []
  | n + 1 => Memory.read m a :: Memory.readBytes m (a + 1) n

/-- The canonical form. -/
abbrev Memory.wf (m : Memory) : Prop :=
  m.Pairwise (fun c d => c.1 < d.1) ∧ ∀ c ∈ m, c.1 < memSize ∧ c.2 ≠ Memory.blank c.1

end Sys2Proof.Machine
end

