-- ==== Sys2Proof/Machine/State.lean ====
section
/-!
DEFINITION. The Machine (10_state): every field of the source's aggregate, the run state and fault record of R30, and one field of the
model's own, `draws`, that counts the random bytes drawn (log 12).
-/
namespace Sys2Proof.Machine

/-- R30: "the Machine is always in exactly one of {Running, HaltedError}". -/
inductive RunState where
  | running
  | haltedError
deriving DecidableEq, Repr

/-- The fault kinds a step can raise (60_exceptions R230, codes 1 to 6). -/
inductive FaultKind where
  /-- 1: fetch with pc + 1 >= 4096 -/
  | outOfBounds
  /-- 2: 2nnn with sp = 16 -/
  | stackOverflow
  /-- 3: 00EE with sp = 0 -/
  | stackUnderflow
  /-- 4: the word matches no row of the opcode table -/
  | unknownOpcode
  /-- 5: a byte of a data access at an address of 4096 or more -/
  | dataOutOfBounds
  /-- 6: Ex9E or ExA1 with V[x] >= 16 -/
  | badKeyIndex
deriving DecidableEq, Repr

/-- The `info` of a fault record (R237). -/
inductive FaultInfo where
  | none
  /-- the faulting address of DataOutOfBounds, an unbounded sum (20_memory R59) -/
  | address (a : Nat)
  /-- V[x] of BadKeyIndex -/
  | key (k : Byte)
deriving DecidableEq, Repr

/-- The fault record `{kind, pc, word, info}` (R237). -/
structure FaultRecord where
  kind : FaultKind
  /-- pc0, the address of the faulting instruction or of the failed fetch -/
  pc : Word
  /-- the fetched word; none for OutOfBounds -/
  word : Option Word
  info : FaultInfo
deriving DecidableEq, Repr

/-- The Machine. -/
structure State where
  /-- general registers V0..VF (R20); `V[15]` is VF (R21) -/
  V : Vector Byte 16
  /-- index register (R26) -/
  I : Word
  /-- program counter (R22) -/
  pc : Word
  /-- stack pointer, the next free slot; legal values 0..16 (R25) -/
  sp : Byte
  /-- call stack (R31) -/
  stack : Vector Word 16
  /-- delay timer (R27) -/
  DT : Byte
  /-- sound timer (R28) -/
  ST : Byte
  /-- keypad, true = pressed (R32) -/
  keypad : Vector Bool 16
  /-- display cells `video[x][y]`, true = lit (R33) -/
  video : Vector (Vector Bool 32) 64
  /-- last fetched word (R29) -/
  opcode : Word
  /-- memory (R34) -/
  mem : Memory
  /-- run state (R30) -/
  run : RunState
  /-- the record of the fault that halted the machine; empty while running (R30) -/
  fault : Option FaultRecord
  /-- THE MODEL'S OWN: how many random bytes have been drawn (log 12) -/
  draws : Nat
deriving DecidableEq, Repr

/-- What stops the model where the spec gives no effect. The spec's own faults (R230) are not here: they lead to a NEXT state in
HaltedError (R236). -/
inductive Fault where
  /-- Raised by 00EE alone, when sp is above 16: it would read a stack entry that does not exist. 10_state R25 says sp is never
  outside 0..16, so no run reaches it. Safe (log 24). -/
  | noStackEntry (sp : Byte)
deriving DecidableEq, Repr

/-- What the model refuses. -/
inductive Refusal where
  /-- An arm of `exec` without a meaning. No arm raises it now. Safe. -/
  | notModelled (mnemonic : String)
deriving DecidableEq, Repr

/-- The state after `construct()` (10_state R35, 70_reset_and_hazards R260): "all fields zeroed except font data pre-loaded into
memory", FONT at its default. Memory lists nothing: unlisted addresses read as the reset contents (`Memory.blank`). -/
def State.reset : State where
  V := Vector.replicate 16 0#8
  I := 0#16
  pc := 0#16
  sp := 0#8
  stack := Vector.replicate 16 0#16
  DT := 0#8
  ST := 0#8
  keypad := Vector.replicate 16 false
  video := Vector.replicate 64 (Vector.replicate 32 false)
  opcode := 0#16
  mem := []
  run := .running
  fault := none
  draws := 0

end Sys2Proof.Machine
end

