-- ==== Sys2Proof/Machine/Ops.lean ====
section
/-!
DEFINITION. The named operations over registers, pc, stack, display, keypad and memory, the instruction fetch, and the entry into a fault.
There is no return from a fault beside it: HaltedError is never left (60_exceptions R241).
-/
namespace Sys2Proof.Machine

/-! ## General registers (10_state R20, R21) -/

/-- V[r]. -/
def State.reg (s : State) (r : Reg) : Byte := s.V[r.toNat]'r.isLt

/-- `V[r] <- v`. -/
def State.setReg (s : State) (r : Reg) (v : Byte) : State := { s with V := s.V.set r.toNat v r.isLt }

/-- VF is V[15] (R21). -/
def VF : Reg := 15#4

/-! ## Program counter (10_state R22, 40_cycle R95) -/

/-- `pc <- target`, taken as given: no alignment or range check (42_control, head of the file). -/
def State.setPc (s : State) (target : Word) : State := { s with pc := target }

/-- The default successor, pc0 + 2 (40_cycle R95). -/
def State.advance (s : State) : State := s.setPc (s.pc + 2#16)

/-- The successor of a skip: pc0 + 4 when taken, pc0 + 2 when not (42_control R138; log 28). -/
def State.skipIf (s : State) (taken : Bool) : State :=
  s.setPc (if taken then s.pc + 4#16 else s.pc + 2#16)

/-! ## Index register and timers -/

/-- `I <- v` (10_state R26). -/
def State.setI (s : State) (v : Word) : State := { s with I := v }

/-- `DT <- v` (10_state R27). -/
def State.setDT (s : State) (v : Byte) : State := { s with DT := v }

/-- `ST <- v` (10_state R28). -/
def State.setST (s : State) (v : Byte) : State := { s with ST := v }

/-! ## Call stack (10_state R25, R31) -/

/-- `stack[sp] <- v; sp <- sp + 1`. The caller has checked sp < 16 (42_control R132). -/
def State.push (s : State) (v : Word) : State :=
  { s with stack := s.stack.setIfInBounds s.sp.toNat v, sp := s.sp + 1#8 }

/-- `stack[sp - 1]`, the entry a return pops; none where there is no such entry. -/
def State.top (s : State) : Option Word := s.stack[s.sp.toNat - 1]?

/-- `sp <- sp - 1`; the popped entry keeps its value (R31). -/
def State.drop (s : State) : State := { s with sp := s.sp - 1#8 }

/-! ## Display (10_state R33) -/

/-- The grid `video[x][y]`. -/
abbrev Video := Vector (Vector Bool 32) 64

/-- `video[x][y]`. -/
def Video.cell (v : Video) (x : Fin 64) (y : Fin 32) : Bool := (v[x.val])[y.val]

/-- `video[x][y] <- not video[x][y]`. -/
def Video.toggle (v : Video) (x : Fin 64) (y : Fin 32) : Video :=
  v.set x.val ((v[x.val]).set y.val (!(v[x.val])[y.val]))

/-- Every cell false (41_display R111). -/
def Video.dark : Video := Vector.replicate 64 (Vector.replicate 32 false)

/-- The inner loop of Dxyn over the sprite's 1 bits, in order: `if video[px][py]: collision = 1`, then toggle (41_display R112). -/
def Video.draw (v : Video) (collision : Bool) (ps : List (Fin 64 × Fin 32)) : Video × Bool :=
  match ps with
  | [] => (v, collision)
  | p :: rest => Video.draw (Video.toggle v p.1 p.2) (collision || Video.cell v p.1 p.2) rest

/-- `video[x][y]` of the machine. -/
def State.cell (s : State) (x : Fin 64) (y : Fin 32) : Bool := Video.cell s.video x y

/-- The machine with another grid. -/
def State.setVideo (s : State) (v : Video) : State := { s with video := v }

/-! ## Keypad (10_state R32) -/

/-- Is key k pressed; none for an index that is no key. -/
def State.key (s : State) (k : Nat) : Option Bool := s.keypad[k]?

/-- The lowest pressed key, if any is pressed (45_keys_timers R213; log 7). -/
def State.lowestKey (s : State) : Option Nat := s.keypad.toList.findIdx? id

/-! ## Memory (20_memory R51, R52) -/

/-- `mem[a]`. -/
def State.readByte (s : State) (a : Nat) : Byte := Memory.read s.mem a

/-- `mem[a + k] <- bs[k]` for each k. The caller has checked the addresses. -/
def State.writeBytes (s : State) (a : Nat) (bs : List Byte) : State :=
  { s with mem := Memory.writeBytes s.mem a bs }

/-! ## Instruction fetch (20_memory R53) -/

/-- The word at pc, big-endian; none when pc + 1 >= 4096, computed without wrapping. -/
def State.fetch (s : State) : Option Word :=
  if memSize ≤ s.pc.toNat + 1 then none
  else some (wordOfBytes (s.readByte s.pc.toNat) (s.readByte (s.pc.toNat + 1)))

/-- `opcode <- w` (40_cycle R92). -/
def State.setOpcode (s : State) (w : Word) : State := { s with opcode := w }

/-! ## Faults (60_exceptions R230, R236, R237) -/

/-- Entry into a fatal fault (R236): HaltedError, the record stored, nothing else changed; pc still addresses the faulting
instruction. -/
def State.fatal (s : State) (kind : FaultKind) (word : Option Word) (info : FaultInfo) : State :=
  { s with run := .haltedError, fault := some { kind := kind, pc := s.pc, word := word, info := info } }

/-- A fault of the execute phase (40_cycle R94, R96): its word is the fetched word, which the fetch left in `opcode` (R92). -/
def State.raise (s : State) (kind : FaultKind) (info : FaultInfo) : State :=
  s.fatal kind (some s.opcode) info

/-- UnknownOpcode under each policy (40_cycle R97): fatal under Halt; under Skip the word is passed over, pc0 + 2. -/
def State.unknownOpcode (s : State) (policy : UnknownOpcodePolicy) (w : Word) : State :=
  match policy with
  | .halt => s.fatal .unknownOpcode (some w) .none
  | .skip => s.advance

/-- The spec's numeric codes of the kinds (R230, 92 D22). -/
def faultCode (kind : FaultKind) : Nat :=
  match kind with
  | .outOfBounds => 1
  | .stackOverflow => 2
  | .stackUnderflow => 3
  | .unknownOpcode => 4
  | .dataOutOfBounds => 5
  | .badKeyIndex => 6

end Sys2Proof.Machine
end

