-- ==== Sys2Proof/Machine/Operands.lean ====
section
/-!
DEFINITION. Operand forms: 12-bit targets (30_encoding R73), the one data addressing mode I + k with its bounds check (44_index_memory
R190, R194; 20_memory R59), glyph addresses, decimal digits, register ranges and sprites (41_display R110, R112).
-/
namespace Sys2Proof.Machine

/-- `zext_16(nnn)` (30_encoding R73). -/
def zext16 (nnn : Addr12) : Word := nnn.setWidth 16

/-- `zext_16` of a byte. -/
def zextByte (b : Byte) : Word := b.setWidth 16

/-- The bounds check of an access of `count` bytes at base, base + 1, ... (44_index_memory R194, 41_display R112): the lowest address of
the access that is 4096 or more, if there is one. Addresses are unbounded sums (20_memory R59; log 5). -/
def firstBadAddress (base count : Nat) : Option Nat :=
  if 0 < count ∧ memSize ≤ base + count - 1 then some (max base memSize) else none

/-- An instruction that accesses `count` bytes from I: DataOutOfBounds before any write, or the completed state. -/
def State.withData (s : State) (count : Nat) (done : State) : Host.Outcome State Fault Refusal :=
  match firstBadAddress s.I.toNat count with
  | some a => .next (s.raise .dataOutOfBounds (.address a))
  | none => .next done

/-- The address of the glyph of a digit, with no mask (44_index_memory R193; log 14). -/
def glyphAddress (v : Byte) : Word := BitVec.ofNat 16 (fontBase + glyphBytes * v.toNat)

/-- Hundreds, tens and ones (44_index_memory R195). -/
def decimalDigits (v : Byte) : List Byte :=
  [BitVec.ofNat 8 (v.toNat / 100), BitVec.ofNat 8 (v.toNat / 10 % 10), BitVec.ofNat 8 (v.toNat % 10)]

/-- V0..Vx (44_index_memory R196). -/
def State.regsUpTo (s : State) (x : Reg) : List Byte := s.V.toList.take (x.toNat + 1)

/-- `for i in 0..=x: V[i] <- mem[I + i]` (44_index_memory R197). -/
def State.loadRegs (s : State) (x : Reg) : State :=
  { s with V := Vector.ofFn fun i : Fin 16 => if i.val ≤ x.toNat then s.readByte (s.I.toNat + i.val) else s.V[i.val] }

/-! ## Sprites -/

/-- The pixel of column c (0..7) of a sprite byte: bit 7 - c (41_display R110). The one place that holds the bit order. Log 2:
PRESUMED, unsafe. -/
def spriteBit (b : Byte) (col : Nat) : Bool := b.getLsbD (7 - col)

/-- The cells under the 1 bits of one row, columns 0..7 in order, wrapped on both axes (41_display R112). -/
def rowPixels (x0 y : Nat) (b : Byte) : List (Fin 64 × Fin 32) :=
  ((List.range 8).filter (spriteBit b)).map fun col => (Fin.ofNat 64 (x0 + col), Fin.ofNat 32 y)

/-- The cells under the 1 bits of a sprite, top row first (41_display R110, R112). -/
def spritePixels (x0 y0 : Nat) (rows : List Byte) : List (Fin 64 × Fin 32) :=
  match rows with
  | [] => []
  | b :: rest => rowPixels x0 y0 b ++ spritePixels x0 (y0 + 1) rest

/-- The sprite bytes at I, I + 1, ... (41_display R112). -/
def State.spriteRows (s : State) (n : Nibble) : List Byte := Memory.readBytes s.mem s.I.toNat n.toNat

end Sys2Proof.Machine
end

