-- ==== Sys2Proof/Machine/Alu.lean ====
section
/-!
DEFINITION. Register and arithmetic instructions (43_alu). The flag-writing ones run their statements in the order the rule writes them:
the flag is written first, and the result reads what that write left (R160; log 3).
-/
namespace Sys2Proof.Machine

/-- `V[x] <- v; pc1 = pc0 + 2`. -/
def State.result (s : State) (x : Reg) (v : Byte) : Host.Outcome State Fault Refusal :=
  .next (s.setReg x v).advance

/-- 6xkk LD Vx, kk (R161). -/
def execLdK (x : Reg) (kk : Byte) (s : State) : Host.Outcome State Fault Refusal := s.result x kk

/-- 7xkk ADD Vx, kk (R162): modulo 256, no flag. -/
def execAddK (x : Reg) (kk : Byte) (s : State) : Host.Outcome State Fault Refusal :=
  s.result x (s.reg x + kk)

/-- 8xy0 LD Vx, Vy (R163). -/
def execLdV (x y : Reg) (s : State) : Host.Outcome State Fault Refusal := s.result x (s.reg y)

/-- 8xy1 OR Vx, Vy (R164). -/
def execOrV (x y : Reg) (s : State) : Host.Outcome State Fault Refusal :=
  s.result x (s.reg x ||| s.reg y)

/-- 8xy2 AND Vx, Vy (R165). -/
def execAndV (x y : Reg) (s : State) : Host.Outcome State Fault Refusal :=
  s.result x (s.reg x &&& s.reg y)

/-- 8xy3 XOR Vx, Vy (R166). -/
def execXorV (x y : Reg) (s : State) : Host.Outcome State Fault Refusal :=
  s.result x (s.reg x ^^^ s.reg y)

/-- 8xy4 ADD Vx, Vy (R167): the sum is taken from the old values. -/
def execAddV (x y : Reg) (s : State) : Host.Outcome State Fault Refusal :=
  let sum := s.reg x + s.reg y
  (s.setReg VF (carryFlag (s.reg x) (s.reg y))).result x sum

/-- 8xy5 SUB Vx, Vy (R168): V[x] and V[y] are read after the VF write. -/
def execSubV (x y : Reg) (s : State) : Host.Outcome State Fault Refusal :=
  let t := s.setReg VF (noBorrowFlag (s.reg x) (s.reg y))
  t.result x (t.reg x - t.reg y)

/-- 8xy6 SHR Vx, Vy (R169): logical; V[x] is read after the VF write; y is not read. -/
def execShr (x _y : Reg) (s : State) : Host.Outcome State Fault Refusal :=
  let t := s.setReg VF (lowBitFlag (s.reg x))
  t.result x (t.reg x >>> 1)

/-- 8xy7 SUBN Vx, Vy (R170): V[x] and V[y] are read after the VF write. -/
def execSubn (x y : Reg) (s : State) : Host.Outcome State Fault Refusal :=
  let t := s.setReg VF (noBorrowFlag (s.reg y) (s.reg x))
  t.result x (t.reg y - t.reg x)

/-- 8xyE SHL Vx, Vy (R171): V[x] is read after the VF write; y is not read. -/
def execShl (x _y : Reg) (s : State) : Host.Outcome State Fault Refusal :=
  let t := s.setReg VF (highBitFlag (s.reg x))
  t.result x (t.reg x <<< 1)

/-- Cxkk with the step's random byte given (R172): `V[x] <- rand & kk`. One more byte has been drawn. -/
def State.random (s : State) (rand : Byte) (x : Reg) (kk : Byte) : Host.Outcome State Fault Refusal :=
  State.result { s with draws := s.draws + 1 } x (rand &&& kk)

/-- Cxkk RND Vx, kk (R172): the byte is a free value, a fresh one for each Cxkk (log 12). -/
def execRnd (x : Reg) (kk : Byte) (s : State) : Host.Outcome State Fault Refusal :=
  s.random (Config.rand s.draws) x kk

end Sys2Proof.Machine
end

