-- ==== Sys2Proof/Machine/Control.lean ====
section
/-!
DEFINITION. Control transfer and skips (42_control).
-/
namespace Sys2Proof.Machine

/-- 00EE RET (R130): StackUnderflow at sp = 0; else sp <- sp - 1, pc <- stack[sp]. For sp above 16, which 10_state R25 rules out,
there is no entry to read and the model stops (log 24). -/
def execRet (s : State) : Host.Outcome State Fault Refusal :=
  if s.sp = 0#8 then .next (s.raise .stackUnderflow .none)
  else
    match s.top with
    | some target => .next (s.drop.setPc target)
    | none => .fault (.noStackEntry s.sp)

/-- 1nnn JP nnn (R131). -/
def execJp (nnn : Addr12) (s : State) : Host.Outcome State Fault Refusal :=
  .next (s.setPc (zext16 nnn))

/-- 2nnn CALL nnn (R132): StackOverflow when sp >= 16; else the return address pc0 + 2 is pushed. -/
def execCall (nnn : Addr12) (s : State) : Host.Outcome State Fault Refusal :=
  if 16 ≤ s.sp.toNat then .next (s.raise .stackOverflow .none)
  else .next ((s.push (s.pc + 2#16)).setPc (zext16 nnn))

/-- 3xkk SE Vx, kk (R133). -/
def execSeK (x : Reg) (kk : Byte) (s : State) : Host.Outcome State Fault Refusal :=
  .next (s.skipIf (s.reg x == kk))

/-- 4xkk SNE Vx, kk (R134). -/
def execSneK (x : Reg) (kk : Byte) (s : State) : Host.Outcome State Fault Refusal :=
  .next (s.skipIf (s.reg x != kk))

/-- 5xy0 SE Vx, Vy (R135). -/
def execSeV (x y : Reg) (s : State) : Host.Outcome State Fault Refusal :=
  .next (s.skipIf (s.reg x == s.reg y))

/-- 9xy0 SNE Vx, Vy (R136). -/
def execSneV (x y : Reg) (s : State) : Host.Outcome State Fault Refusal :=
  .next (s.skipIf (s.reg x != s.reg y))

/-- Bnnn JP V0, nnn (R137): an unbounded sum, at most 0x10FE, so the 16-bit sum never wraps. -/
def execJpV0 (nnn : Addr12) (s : State) : Host.Outcome State Fault Refusal :=
  .next (s.setPc (zext16 nnn + zextByte (s.reg 0#4)))

end Sys2Proof.Machine
end

