-- ==== Sys2Proof/Machine/Display.lean ====
section
/-!
DEFINITION. Display instructions (41_display).
-/
namespace Sys2Proof.Machine

/-- 00E0 CLS (R111). -/
def execCls (s : State) : Host.Outcome State Fault Refusal :=
  .next (s.setVideo Video.dark).advance

/-- Draws sprite bytes at (x0, y0) and writes the collision flag (R112). -/
def State.drawSprite (s : State) (x0 y0 : Byte) (rows : List Byte) : State :=
  let d := Video.draw s.video false (spritePixels x0.toNat y0.toNat rows)
  (s.setVideo d.1).setReg VF (flag d.2)

/-- Dxyn DRW Vx, Vy, n (R112): the coordinates are read first, the bounds are checked before any write. -/
def execDrw (x y : Reg) (n : Nibble) (s : State) : Host.Outcome State Fault Refusal :=
  s.withData n.toNat (s.drawSprite (s.reg x) (s.reg y) (s.spriteRows n)).advance

end Sys2Proof.Machine
end

