-- ==== Sys2Proof/Machine/IndexMemory.lean ====
section
/-!
DEFINITION. Index register and memory instructions (44_index_memory). None of them changes I as a side effect of an access (R190; log 13).
-/
namespace Sys2Proof.Machine

/-- Annn LD I, nnn (R191). -/
def execLdI (nnn : Addr12) (s : State) : Host.Outcome State Fault Refusal :=
  .next (s.setI (zext16 nnn)).advance

/-- Fx1E ADD I, Vx (R192): modulo 2^16, no flag. -/
def execAddI (x : Reg) (s : State) : Host.Outcome State Fault Refusal :=
  .next (s.setI (s.I + zextByte (s.reg x))).advance

/-- Fx29 LD F, Vx (R193). -/
def execLdF (x : Reg) (s : State) : Host.Outcome State Fault Refusal :=
  .next (s.setI (glyphAddress (s.reg x))).advance

/-- Fx33 LD B, Vx (R195): three digits at I, I + 1, I + 2. -/
def execLdB (x : Reg) (s : State) : Host.Outcome State Fault Refusal :=
  s.withData 3 (s.writeBytes s.I.toNat (decimalDigits (s.reg x))).advance

/-- Fx55 LD [I], Vx (R196): V0..Vx at I, ..., I + x. -/
def execStRegs (x : Reg) (s : State) : Host.Outcome State Fault Refusal :=
  s.withData (x.toNat + 1) (s.writeBytes s.I.toNat (s.regsUpTo x)).advance

/-- Fx65 LD Vx, [I] (R197): V0..Vx from I, ..., I + x. -/
def execLdRegs (x : Reg) (s : State) : Host.Outcome State Fault Refusal :=
  s.withData (x.toNat + 1) (s.loadRegs x).advance

end Sys2Proof.Machine
end

