-- ==== Sys2Proof/Machine/KeysTimers.lean ====
section
/-!
DEFINITION. Keypad and timer instructions (45_keys_timers).
-/
namespace Sys2Proof.Machine

/-- A skip on the level of key V[x]: taken when it equals `pressed`; BadKeyIndex(V[x]) when V[x] is no key (R216; log 6). -/
def State.skipOnKey (s : State) (x : Reg) (pressed : Bool) : Host.Outcome State Fault Refusal :=
  match s.key (s.reg x).toNat with
  | some level => .next (s.skipIf (level == pressed))
  | none => .next (s.raise .badKeyIndex (.key (s.reg x)))

/-- Ex9E SKP Vx (R210). -/
def execSkp (x : Reg) (s : State) : Host.Outcome State Fault Refusal := s.skipOnKey x true

/-- ExA1 SKNP Vx (R211). -/
def execSknp (x : Reg) (s : State) : Host.Outcome State Fault Refusal := s.skipOnKey x false

/-- Fx07 LD Vx, DT (R212). -/
def execLdVDt (x : Reg) (s : State) : Host.Outcome State Fault Refusal :=
  .next (s.setReg x s.DT).advance

/-- Fx0A LD Vx, K (R213): with no key pressed pc is held, and the same Fx0A runs again at the next step. -/
def execLdVK (x : Reg) (s : State) : Host.Outcome State Fault Refusal :=
  match s.lowestKey with
  | some k => .next (s.setReg x (BitVec.ofNat 8 k)).advance
  | none => .next (s.setPc s.pc)

/-- Fx15 LD DT, Vx (R214). -/
def execLdDtV (x : Reg) (s : State) : Host.Outcome State Fault Refusal :=
  .next (s.setDT (s.reg x)).advance

/-- Fx18 LD ST, Vx (R215). -/
def execLdStV (x : Reg) (s : State) : Host.Outcome State Fault Refusal :=
  .next (s.setST (s.reg x)).advance

end Sys2Proof.Machine
end

