-- ==== Sys2Proof/Machine/Cycle.lean ====
section
/-!
DEFINITION. The fetch-decode-execute step (40_cycle R90 to R101), with UNKNOWN_OPCODE_POLICY as a named argument (R97; log 8), and what the
step reports to the host.
-/
namespace Sys2Proof.Machine

/-- Decode and execute the fetched word w, which `opcode` already holds (R93, R94, R97). -/
def State.runWord (s : State) (policy : UnknownOpcodePolicy) (w : Word) : Host.Outcome State Fault Refusal :=
  match decode w with
  | .instr i => exec i s
  | .unknown w => .next (s.unknownOpcode policy w)

/-- One step of a Running machine (R92 to R98): fetch, then decode, then execute; the first check to fail decides the fault. -/
def State.runStep (s : State) (policy : UnknownOpcodePolicy) : Host.Outcome State Fault Refusal :=
  match s.fetch with
  | none => .next (s.fatal .outOfBounds none .none)
  | some w => (s.setOpcode w).runWord policy w

/-- `step` under a policy (R100). A step in HaltedError changes nothing (R91; log 11). -/
def cycle (policy : UnknownOpcodePolicy) (s : State) : Host.Outcome State Fault Refusal :=
  match s.run with
  | .haltedError => .next s
  | .running => s.runStep policy

/-- The result of a step as the host sees it (R90). -/
inductive StepResult where
  /-- the instruction completed and the Machine is Running -/
  | ok
  /-- an unknown opcode under policy Skip; the Machine is Running -/
  | reported (r : FaultRecord)
  /-- the Machine is now, or already was, in HaltedError, with this stored record -/
  | halted (r : Option FaultRecord)
deriving DecidableEq, Repr

/-- The unknown word at pc, if the fetch succeeds and the word matches no row. -/
def State.unknownWord (s : State) : Option Word :=
  match s.fetch with
  | none => none
  | some w =>
      match decode w with
      | .instr _ => none
      | .unknown w => some w

/-- The result of the step that took s to t (R90, R91, R97, R100). -/
def stepResult (s t : State) : StepResult :=
  match t.run with
  | .haltedError => .halted t.fault
  | .running =>
      match s.unknownWord with
      | some w => .reported { kind := .unknownOpcode, pc := s.pc, word := some w, info := .none }
      | none => .ok

/-- `withFetchWord` (Machine/Step.lean): the word, big-endian, at pc and pc + 1. Where no fetch is legal at pc, pc is first moved to the entry point
0x200; a halted machine is set running, since it would fetch nothing. Log 26. -/
def State.placeWord (s : State) (w : Word) : State :=
  let base : Word := if memSize ≤ s.pc.toNat + 1 then BitVec.ofNat 16 progBase else s.pc
  { s with
    pc := base
    mem := Memory.writeBytes s.mem base.toNat (bytesOfWord w)
    run := .running
    fault := match s.run with
      | .running => s.fault
      | .haltedError => none }

end Sys2Proof.Machine
end

