-- ==== Sys2Proof/Machine/Step.lean ====
section
/-!
DEFINITION. The step of the machine: `cycle` (Machine/Cycle.lean) under the session's policy, and the placing of a word where it fetches.
-/
namespace Sys2Proof.Machine

/-- One fetch-decode-execute step (40_cycle R90, R100), under the policy the host fixed for the session (10_state R39). -/
def step : State → Host.Outcome State Fault Refusal := fun s => cycle Config.unknownOpcodePolicy s

/-- s with a word stored where `step` fetches next; bits at and above nbits are zero. Log 26 says how a program comes to run. -/
def State.withFetchWord (s : State) (nbits w : Nat) : State :=
  s.placeWord (BitVec.ofNat 16 (w % 2 ^ nbits))

end Sys2Proof.Machine
end

