-- ==== Sys2Proof/Machine/HostOps.lean ====
section
/-!
DEFINITION. The operations the block offers its host (00_scope R7), each atomic, and free schedules of them (70_reset_and_hazards R275).
-/
namespace Sys2Proof.Machine

/-- What the host fixes for a session (00_scope R9, 70_reset_and_hazards R265): the policy for unknown opcodes and the font. -/
structure Session where
  /-- UNKNOWN_OPCODE_POLICY, open (40_cycle R97) -/
  policy : UnknownOpcodePolicy
  /-- FONT, by default the standard table (20_memory R66, 93 U19) -/
  font : Font := fontTable
deriving DecidableEq, Repr

/-! ## Construction and loading (70_reset_and_hazards R260 to R264) -/

/-- `construct()`: a fresh Machine (R260) with FONT copied to 0x050..0x09F (R261). The count of drawn random bytes goes on, so that a
second Machine draws fresh bytes (log 12). -/
def State.construct (s : State) (font : Font := fontTable) : State :=
  { State.reset with mem := Memory.writeBytes [] fontBase font.toList, draws := s.draws }

/-- What `load` returns. -/
inductive LoadResult where
  | ok
  /-- LoadError(OutOfSpace), code 16, with the length (60_exceptions R230, R253) -/
  | outOfSpace (length : Nat)
deriving DecidableEq, Repr

/-- The spec's numeric code of LoadError(OutOfSpace) (60_exceptions R230, 92 D22). -/
def loadErrorCode : Nat := 16

/-- `load(bytes)` (R262, R263): the bytes at 0x200 and pc <- 0x200, nothing else; too many bytes change nothing. The same in
HaltedError and on a second call (R264; log 16). -/
def State.load (s : State) (bytes : List Byte) : State × LoadResult :=
  if progBase + bytes.length ≤ memSize then
    ((s.writeBytes progBase bytes).setPc (BitVec.ofNat 16 progBase), .ok)
  else (s, .outOfSpace bytes.length)

/-! ## Timers, keypad, display, sound, dump (60_exceptions) -/

/-- One timer, decremented but not below 0 (R245). -/
def countDown (t : Byte) : Byte := if t = 0#8 then 0#8 else t - 1#8

/-- `tick_timers()` (R245): both timers, in one atomic operation; also in HaltedError (R241). -/
def State.tickTimers (s : State) : State := { s with DT := countDown s.DT, ST := countDown s.ST }

/-- `set_key(k, pressed)` (R248); none for k >= 16, which is refused at the interface (log 19). -/
def State.setKey (s : State) (k : Nat) (pressed : Bool) : Option State :=
  if k < 16 then some { s with keypad := s.keypad.setIfInBounds k pressed } else none

/-- `pixel(x, y)` (R250); none outside 64 × 32, which is refused at the interface (log 19). -/
def State.pixel (s : State) (x y : Nat) : Option Bool :=
  if h : x < 64 ∧ y < 32 then some (s.cell ⟨x, h.1⟩ ⟨y, h.2⟩) else none

/-- `sound_timer()` (R252). -/
def State.soundTimer (s : State) : Byte := s.ST

/-- The block's sound output: a tone while ST > 0 (R252). -/
def State.tone (s : State) : Bool := decide (0 < s.ST.toNat)

/-- The values `dump()` returns (R254). -/
structure Dump where
  V : Vector Byte 16
  I : Word
  pc : Word
  sp : Byte
  DT : Byte
  ST : Byte
  opcode : Word
deriving DecidableEq, Repr

/-- `dump()` (R254). -/
def State.dump (s : State) : Dump :=
  { V := s.V, I := s.I, pc := s.pc, sp := s.sp, DT := s.DT, ST := s.ST, opcode := s.opcode }

/-! ## Schedules (70_reset_and_hazards R275; log 18) -/

/-- An operation of the host (00_scope R7). -/
inductive HostOp where
  | construct
  | load (bytes : List Byte)
  | step
  | tickTimers
  | setKey (k : Nat) (pressed : Bool)
  | pixel (x y : Nat)
  | soundTimer
  | dump
deriving DecidableEq, Repr

/-- What an operation returns. -/
inductive HostResult where
  | done
  | loaded (r : LoadResult)
  | stepped (r : StepResult)
  | bit (b : Bool)
  | byte (b : Byte)
  | dumped (d : Dump)
  /-- a `set_key` or `pixel` outside its range; nothing changed (R248, R250) -/
  | refused
deriving DecidableEq, Repr

/-- A step with its result (40_cycle R90). -/
def performStep (policy : UnknownOpcodePolicy) (s : State) : Host.Outcome (State × HostResult) Fault Refusal :=
  match cycle policy s with
  | .next t => .next (t, .stepped (stepResult s t))
  | .fault f => .fault f
  | .refused r => .refused r

/-- `set_key` with its result. -/
def performSetKey (k : Nat) (pressed : Bool) (s : State) : State × HostResult :=
  match s.setKey k pressed with
  | some t => (t, .done)
  | none => (s, .refused)

/-- `pixel` with its result. -/
def performPixel (x y : Nat) (s : State) : State × HostResult :=
  match s.pixel x y with
  | some b => (s, .bit b)
  | none => (s, .refused)

/-- One operation of the host. -/
def perform (session : Session) (op : HostOp) (s : State) : Host.Outcome (State × HostResult) Fault Refusal :=
  match op with
  | .construct => .next (s.construct session.font, .done)
  | .load bytes => .next ((s.load bytes).1, .loaded (s.load bytes).2)
  | .step => performStep session.policy s
  | .tickTimers => .next (s.tickTimers, .done)
  | .setKey k pressed => .next (performSetKey k pressed s)
  | .pixel x y => .next (performPixel x y s)
  | .soundTimer => .next (s, .byte s.soundTimer)
  | .dump => .next (s, .dumped s.dump)

/-- A finite schedule, one operation after another; the results are dropped. -/
def runSchedule (session : Session) (ops : List HostOp) (s : State) : Host.Outcome State Fault Refusal :=
  match ops with
  | [] => .next s
  | op :: rest =>
      match perform session op s with
      | .next t => runSchedule session rest t.1
      | .fault f => .fault f
      | .refused r => .refused r

/-- An infinite schedule (R275): the host's operations, numbered from 0. -/
abbrev InfiniteSchedule := Nat → HostOp

/-- The run of an infinite schedule: the state after its first n operations, for every n. -/
def runInfinite (session : Session) (ops : InfiniteSchedule) (s : State) (n : Nat) : Host.Outcome State Fault Refusal :=
  match n with
  | 0 => .next s
  | n + 1 =>
      match runInfinite session ops s n with
      | .next t => runSchedule session [ops n] t
      | .fault f => .fault f
      | .refused r => .refused r

end Sys2Proof.Machine
end

