-- ==== Sys2Proof/Safety.lean ====
section
/-!
DEFINITION. The terms claims are stated in: what an instruction leaves unchanged (one predicate per piece of state), and the invariant of
the machine.
-/
namespace Sys2Proof.Machine

/-! ## Encodings -/

/-- The "Encoding" line of an instruction's rule, its mask included: the word numbered n decodes to the instruction, and no other does. -/
def EncodedAs (i : Instr) (n : Nat) : Prop := ∀ w : Word, decode w = .instr i ↔ w.toNat = n

/-! ## Unchanged pieces of state, from s to t -/

/-- Every general register but those listed. -/
def SameRegsBut (rs : List Reg) (s t : State) : Prop := ∀ r, r ∉ rs → t.reg r = s.reg r

/-- The index register. -/
def SameIndex (s t : State) : Prop := t.I = s.I

/-- sp and every stack entry. -/
def SameStack (s t : State) : Prop := t.sp = s.sp ∧ t.stack = s.stack

/-- Both timers. -/
def SameTimers (s t : State) : Prop := t.DT = s.DT ∧ t.ST = s.ST

/-- The keypad. -/
def SameKeys (s t : State) : Prop := t.keypad = s.keypad

/-- Every display cell. -/
def SameDisplay (s t : State) : Prop := ∀ x y, t.cell x y = s.cell x y

/-- Every byte of memory. -/
def SameMemory (s t : State) : Prop := ∀ a, t.readByte a = s.readByte a

/-- Every byte of memory outside the n bytes at a. -/
def SameMemoryOutside (a n : Nat) (s t : State) : Prop :=
  ∀ b, ¬ (a ≤ b ∧ b < a + n) → t.readByte b = s.readByte b

/-- The opcode register, the run state and the fault record. -/
def SameStatus (s t : State) : Prop := t.opcode = s.opcode ∧ t.run = s.run ∧ t.fault = s.fault

/-- The model's count of random bytes drawn (log 12). -/
def SameDraws (s t : State) : Prop := t.draws = s.draws

/-- Everything but pc and the listed registers: the frame of the register instructions, jumps and skips. -/
def OnlyRegs (rs : List Reg) (s t : State) : Prop :=
  SameRegsBut rs s t ∧ SameIndex s t ∧ SameStack s t ∧ SameTimers s t ∧ SameKeys s t ∧ SameDisplay s t ∧ SameMemory s t
    ∧ SameStatus s t ∧ SameDraws s t

/-- What a fault of the execute phase leaves (40_cycle R96, 60_exceptions R236, R237): HaltedError, the record with pc0 and the
fetched word, pc still at the faulting instruction, and nothing else changed. -/
def HaltedBy (kind : FaultKind) (info : FaultInfo) (s t : State) : Prop :=
  t.run = .haltedError ∧ t.fault = some { kind := kind, pc := s.pc, word := some s.opcode, info := info } ∧ t.pc = s.pc
    ∧ t.opcode = s.opcode ∧ SameRegsBut [] s t ∧ SameIndex s t ∧ SameStack s t ∧ SameTimers s t ∧ SameKeys s t
    ∧ SameDisplay s t ∧ SameMemory s t ∧ SameDraws s t

/-- The cells under the 1 bits of an n-row sprite at I drawn at (x0, y0): column c of a row is bit 7 - c of its byte, and both axes wrap
(41_display R110, R112). The bit order is the spec's from general knowledge (92 D11; log 2). -/
def SpriteCovers (s : State) (x0 y0 n : Nat) (px : Fin 64) (py : Fin 32) : Prop :=
  ∃ row, row < n ∧ ∃ col, col < 8 ∧ (s.readByte (s.I.toNat + row)).getLsbD (7 - col) = true
    ∧ px.val = (x0 + col) % 64 ∧ py.val = (y0 + row) % 32

/-! ## The invariant -/

/-- Can what the word decodes to raise this kind of fault: the "raised by" column of 60_exceptions R230. -/
def raisedBy (kind : FaultKind) (d : Decoded) : Bool :=
  match kind, d with
  | .stackOverflow, .instr (.call _) => true
  | .stackUnderflow, .instr .ret => true
  | .unknownOpcode, .unknown _ => true
  | .dataOutOfBounds, .instr (.drw _ _ _) => true
  | .dataOutOfBounds, .instr (.ldB _) => true
  | .dataOutOfBounds, .instr (.stRegs _) => true
  | .dataOutOfBounds, .instr (.ldRegs _) => true
  | .badKeyIndex, .instr (.skp _) => true
  | .badKeyIndex, .instr (.sknp _) => true
  | _, _ => false

/-- Does the info fit the kind (60_exceptions R237). -/
def infoFits (kind : FaultKind) (info : FaultInfo) : Bool :=
  match kind, info with
  | .dataOutOfBounds, .address a => decide (memSize ≤ a)
  | .badKeyIndex, .key k => decide (16 ≤ k.toNat)
  | .dataOutOfBounds, _ => false
  | .badKeyIndex, _ => false
  | _, .none => true
  | _, _ => false

/-- A fault record as 60_exceptions R230 and R237 describe it. -/
def FaultRecord.sound (r : FaultRecord) : Bool :=
  infoFits r.kind r.info &&
    match r.word with
    | none => r.kind == .outOfBounds
    | some w => raisedBy r.kind (decode w)

/-- The invariant of the machine, kept by every step and every host operation: memory in canonical form; sp in 0..16 (10_state R25); pc
at most 0x10FE (R22) and every stack entry at most 0x1000, the largest return address; a fault record exactly in HaltedError
(R30), and a sound one. -/
abbrev State.Inv (s : State) : Prop :=
  Memory.wf s.mem ∧ s.sp.toNat ≤ 16 ∧ s.pc.toNat ≤ 0x10FE ∧ (∀ j : Fin 16, (s.stack[j.val]).toNat ≤ 0x1000)
    ∧ (s.run = .haltedError ↔ s.fault.isSome = true) ∧ s.fault.all FaultRecord.sound = true

/-- The Machine is Running: the only state in which a step runs an instruction (40_cycle R91). -/
def State.isRunning (s : State) : Bool := s.run == .running

end Sys2Proof.Machine
end

