-- ==== Sys2Proof/WellFormed.lean ====
section
/-!
DEFINITION. Well-formed instructions by the formats of 30_encoding R72. `Raw` is an instruction as numbers, one constructor a format;
`Raw.wellFormed` checks each number against the width of its field (R71) and the fixed digits against the rows of R75. An
`Instr` is written out in its format by `Instr.raw`, and is well-formed when that is.
-/
namespace Sys2Proof

/-- An instruction as numbers, by format (R72). -/
inductive Raw where
  /-- FIX: the low byte of a word whose high byte is 0 -/
  | fix (low : Nat)
  /-- NNN -/
  | nnn (op nnn : Nat)
  /-- XKK -/
  | xkk (op x kk : Nat)
  /-- XY, the sub-operation in n -/
  | xy (op x y sub : Nat)
  /-- XYN -/
  | xyn (op x y n : Nat)
  /-- X, the sub-operation in kk -/
  | xs (op x sub : Nat)
deriving DecidableEq, Repr

/-- A register or nibble field holds 0..15 (R71). -/
def fitsNibble (v : Nat) : Bool := decide (v < 16)

/-- The kk field holds 0..255 (R71). -/
def fitsByte (v : Nat) : Bool := decide (v < 256)

/-- The nnn field holds 0..4095 (R71). -/
def fitsAddr (v : Nat) : Bool := decide (v < 4096)

/-- Each format's fixed digits are those of a row of R75, and each operand fits its field. -/
def Raw.wellFormed : Raw → Bool
  | .fix low => [0xE0, 0xEE].contains low
  | .nnn op a => [0x1, 0x2, 0xA, 0xB].contains op && fitsAddr a
  | .xkk op x kk => [0x3, 0x4, 0x6, 0x7, 0xC].contains op && fitsNibble x && fitsByte kk
  | .xy op x y sub =>
      ((op == 0x8 && [0x0, 0x1, 0x2, 0x3, 0x4, 0x5, 0x6, 0x7, 0xE].contains sub)
        || ((op == 0x5 || op == 0x9) && sub == 0))
      && fitsNibble x && fitsNibble y
  | .xyn op x y n => op == 0xD && fitsNibble x && fitsNibble y && fitsNibble n
  | .xs op x sub =>
      ((op == 0xE && [0x9E, 0xA1].contains sub)
        || (op == 0xF && [0x07, 0x0A, 0x15, 0x18, 0x1E, 0x29, 0x33, 0x55, 0x65].contains sub))
      && fitsNibble x

/-- The word a format's digits spell, most significant digit first (R72). -/
def Raw.word : Raw → Nat
  | .fix low => low
  | .nnn op a => op * 0x1000 + a
  | .xkk op x kk => op * 0x1000 + x * 0x100 + kk
  | .xy op x y sub => op * 0x1000 + x * 0x100 + y * 0x10 + sub
  | .xyn op x y n => op * 0x1000 + x * 0x100 + y * 0x10 + n
  | .xs op x sub => op * 0x1000 + x * 0x100 + sub

/-- An instruction in its format (R72), its fixed digits from the patterns of R75. -/
def Instr.raw : Instr → Raw
  | .cls => .fix 0xE0
  | .ret => .fix 0xEE
  | .jp a => .nnn 0x1 a.toNat
  | .call a => .nnn 0x2 a.toNat
  | .seK x kk => .xkk 0x3 x.toNat kk.toNat
  | .sneK x kk => .xkk 0x4 x.toNat kk.toNat
  | .seV x y => .xy 0x5 x.toNat y.toNat 0
  | .ldK x kk => .xkk 0x6 x.toNat kk.toNat
  | .addK x kk => .xkk 0x7 x.toNat kk.toNat
  | .ldV x y => .xy 0x8 x.toNat y.toNat 0x0
  | .orV x y => .xy 0x8 x.toNat y.toNat 0x1
  | .andV x y => .xy 0x8 x.toNat y.toNat 0x2
  | .xorV x y => .xy 0x8 x.toNat y.toNat 0x3
  | .addV x y => .xy 0x8 x.toNat y.toNat 0x4
  | .subV x y => .xy 0x8 x.toNat y.toNat 0x5
  | .shr x y => .xy 0x8 x.toNat y.toNat 0x6
  | .subn x y => .xy 0x8 x.toNat y.toNat 0x7
  | .shl x y => .xy 0x8 x.toNat y.toNat 0xE
  | .sneV x y => .xy 0x9 x.toNat y.toNat 0
  | .ldI a => .nnn 0xA a.toNat
  | .jpV0 a => .nnn 0xB a.toNat
  | .rnd x kk => .xkk 0xC x.toNat kk.toNat
  | .drw x y n => .xyn 0xD x.toNat y.toNat n.toNat
  | .skp x => .xs 0xE x.toNat 0x9E
  | .sknp x => .xs 0xE x.toNat 0xA1
  | .ldVDt x => .xs 0xF x.toNat 0x07
  | .ldVK x => .xs 0xF x.toNat 0x0A
  | .ldDtV x => .xs 0xF x.toNat 0x15
  | .ldStV x => .xs 0xF x.toNat 0x18
  | .addI x => .xs 0xF x.toNat 0x1E
  | .ldF x => .xs 0xF x.toNat 0x29
  | .ldB x => .xs 0xF x.toNat 0x33
  | .stRegs x => .xs 0xF x.toNat 0x55
  | .ldRegs x => .xs 0xF x.toNat 0x65

/-- An instruction is well-formed when its format is. -/
def Instr.wellFormed (i : Instr) : Bool := i.raw.wellFormed

end Sys2Proof
end

