-- ==== Sys2Proof/Certificates/Slice0/Obligations.lean ====
section
/-!
DEFINITION. The statements about the model, from the numbered rules of spec/. A statement whose docstring names a log entry rests, there, on a
decision or an inference of the spec (its 92_eei_decisions) or of the model.
-/

section

open Sys2Proof Sys2Proof.Machine

/-! ## Encoding (30_encoding) -/

/-- Decoding the word of any well-formed instruction gives it back, every operand at every value (R72, R75, R76). The fixed digits are read
as the spec's decision D7 reads them (log 9). -/
def Obligations.DecodeOfEncodeIsTheInstruction : Prop :=
  ∀ i : Instr, i.wellFormed = true → decode (encode i) = .instr i

/-- A word that decodes to an instruction is that instruction's word: decoding drops no bit (R75, R76; log 9). -/
def Obligations.DecodedWordsEncodeBack : Prop :=
  ∀ (w : Word) (i : Instr), decode w = .instr i → encode i = w

/-- The rows of the table of R75 that a word matches, `(w & mask) == match`: exactly the row of the instruction it decodes to, and none for
an unknown word (log 9). -/
def Obligations.EachWordMatchesOnlyItsRow : Prop :=
  ∀ w : Word, rowsMatching w =
    match decode w with
    | .instr i => [i.matchWord]
    | .unknown _ => []

/-- The unknown words, family by family as the table of R77 lists them (log 9); an unknown word is named by itself. -/
def Obligations.UnknownWordsAreTheListedOnes : Prop :=
  ∀ w : Word,
    (decode w = .unknown w ↔
      (w.toNat / 4096 = 0 ∧ w.toNat ≠ 0x00E0 ∧ w.toNat ≠ 0x00EE) ∨
      (w.toNat / 4096 = 5 ∧ w.toNat % 16 ≠ 0) ∨
      (w.toNat / 4096 = 8 ∧ w.toNat % 16 ∈ [0x8, 0x9, 0xA, 0xB, 0xC, 0xD, 0xF]) ∨
      (w.toNat / 4096 = 9 ∧ w.toNat % 16 ≠ 0) ∨
      (w.toNat / 4096 = 0xE ∧ w.toNat % 256 ∉ [0x9E, 0xA1]) ∨
      (w.toNat / 4096 = 0xF ∧ w.toNat % 256 ∉ [0x07, 0x0A, 0x15, 0x18, 0x1E, 0x29, 0x33, 0x55, 0x65])) ∧
    (∀ u, decode w = .unknown u → u = w)

/-- Words written out from the patterns of R75 decode to the instruction they stand for, at least one in each of the sixteen families of
the first digit, and near misses are unknown (test vectors V1.8, V1.9; log 9). -/
def Obligations.SampleWordsDecode : Prop :=
  decode 0x00E0#16 = .instr .cls ∧ decode 0x00EE#16 = .instr .ret ∧ decode 0x1ABC#16 = .instr (.jp 0xABC#12)
    ∧ decode 0x2300#16 = .instr (.call 0x300#12) ∧ decode 0x3112#16 = .instr (.seK 1#4 0x12#8)
    ∧ decode 0x4113#16 = .instr (.sneK 1#4 0x13#8) ∧ decode 0x5120#16 = .instr (.seV 1#4 2#4)
    ∧ decode 0x6A5C#16 = .instr (.ldK 0xA#4 0x5C#8) ∧ decode 0x7301#16 = .instr (.addK 3#4 0x01#8)
    ∧ decode 0x812E#16 = .instr (.shl 1#4 2#4) ∧ decode 0x9120#16 = .instr (.sneV 1#4 2#4)
    ∧ decode 0xA123#16 = .instr (.ldI 0x123#12) ∧ decode 0xB300#16 = .instr (.jpV0 0x300#12)
    ∧ decode 0xC10F#16 = .instr (.rnd 1#4 0x0F#8) ∧ decode 0xD125#16 = .instr (.drw 1#4 2#4 5#4)
    ∧ decode 0xE1A1#16 = .instr (.sknp 1#4) ∧ decode 0xF165#16 = .instr (.ldRegs 1#4)
    ∧ decode 0x5121#16 = .unknown 0x5121#16 ∧ decode 0x800F#16 = .unknown 0x800F#16

/-- Two bytes decode as the big-endian word they make, and the bytes after them are left (20_memory R54, 30_encoding R70); fewer than two
make no word. -/
def Obligations.BytesDecodeAsTheirBigEndianWord : Prop :=
  (∀ (hi lo : Byte) (rest : List Byte),
    decodeBytes (hi :: lo :: rest) =
      match decode (BitVec.ofNat 16 (256 * hi.toNat + lo.toNat)) with
      | .instr i => .instr i rest
      | .unknown w => .unknown w rest) ∧
  (∀ bs : List Byte, bs.length < 2 → decodeBytes bs = .truncated)

/-! ## The step (40_cycle) -/

/-- Where the two bytes at pc decode to an instruction, a Running machine's step is `exec` of it on the state with the fetched word in
`opcode`, under either policy (R92, R93, R94, R100). `opcode` is written before decode by the spec's decision D24 (log 21). -/
def Obligations.StepRunsTheDecodedInstruction : Prop :=
  ∀ (s : State) (i : Instr), s.run = .running → s.pc.toNat + 1 < 4096 →
    decodeBytes [s.readByte s.pc.toNat, s.readByte (s.pc.toNat + 1)] = .instr i [] →
    let w : Word := BitVec.ofNat 16 (256 * (s.readByte s.pc.toNat).toNat + (s.readByte (s.pc.toNat + 1)).toNat)
    (∀ policy, cycle policy s = exec i { s with opcode := w }) ∧ step s = exec i { s with opcode := w }

/-- What the host gets back from a step that executes an instruction (40_cycle R90, R100): Ok where the instruction leaves the machine
Running; Halted with the stored record, of pc0 and the fetched word, where it faults (60_exceptions R236, R237; the spec's decisions D8,
D9 and D23; logs 10, 11, 18, 20). -/
def Obligations.ExecutedStepReturnsOkOrHalted : Prop :=
  ∀ (session : Session) (s t : State) (i : Instr), s.run = .running → s.pc.toNat + 1 < 4096 →
    decodeBytes [s.readByte s.pc.toNat, s.readByte (s.pc.toNat + 1)] = .instr i [] →
    let w : Word := BitVec.ofNat 16 (256 * (s.readByte s.pc.toNat).toNat + (s.readByte (s.pc.toNat + 1)).toNat)
    exec i { s with opcode := w } = .next t →
    (t.run = .running → stepResult s t = .ok ∧ perform session .step s = .next (t, .stepped .ok)) ∧
    (t.run = .haltedError → ∃ kind info, t.fault = some { kind := kind, pc := s.pc, word := some w, info := info }
      ∧ stepResult s t = .halted t.fault ∧ perform session .step s = .next (t, .stepped (.halted t.fault)))

/-- A step in HaltedError changes nothing and returns Halted with the stored record (R91, 60_exceptions R241; log 11). -/
def Obligations.HaltedErrorIsNeverLeftByAStep : Prop :=
  ∀ s : State, s.run = .haltedError →
    step s = .next s ∧ (∀ policy, cycle policy s = .next s) ∧ stepResult s s = .halted s.fault

/-- R231: a fetch beyond memory (pc + 1 >= 4096) is fatal: HaltedError, a record with pc and no word, `opcode` not written, nothing else
changed (the run state and the frame are the spec's decisions D9 and D8; logs 11, 10). -/
def Obligations.FetchBeyondMemoryHalts : Prop :=
  ∀ s : State, s.run = .running → 4095 ≤ s.pc.toNat →
    ∃ t, step s = .next t ∧ (∀ policy, cycle policy s = .next t) ∧ t.run = .haltedError
      ∧ t.fault = some { kind := .outOfBounds, pc := s.pc, word := none, info := .none }
      ∧ stepResult s t = .halted t.fault
      ∧ t.opcode = s.opcode ∧ t.pc = s.pc ∧ SameRegsBut [] s t ∧ SameIndex s t ∧ SameStack s t ∧ SameTimers s t ∧ SameKeys s t
      ∧ SameDisplay s t ∧ SameMemory s t ∧ SameDraws s t

/-- An unknown word under each policy (R97, 60_exceptions R233, R236, R242; logs 8, 10, 21). Halt: fatal, pc stays. Skip: pc + 2, still
Running, reported. Under both, `opcode` takes the word and nothing else changes. `step` is the cycle under the session's policy. -/
def Obligations.UnknownOpcodeUnderEachPolicy : Prop :=
  (∀ s : State, step s = cycle Config.unknownOpcodePolicy s) ∧
  ∀ (s : State) (w : Word), s.run = .running → s.pc.toNat + 1 < 4096 →
    decodeBytes [s.readByte s.pc.toNat, s.readByte (s.pc.toNat + 1)] = .unknown w [] →
    (∃ t, cycle .halt s = .next t ∧ t.opcode = w ∧ HaltedBy .unknownOpcode .none { s with opcode := w } t
      ∧ stepResult s t = .halted (some { kind := .unknownOpcode, pc := s.pc, word := some w, info := .none })) ∧
    (∃ t, cycle .skip s = .next t ∧ t.pc = s.pc + 2#16 ∧ t.run = .running ∧ OnlyRegs [] { s with opcode := w } t
      ∧ stepResult s t = .reported { kind := .unknownOpcode, pc := s.pc, word := some w, info := .none })

/-- After a step of a Running machine with a legal fetch, `opcode` holds the fetched word, whether the instruction completed or faulted
(10_state R29, 40_cycle R92; log 21). -/
def Obligations.OpcodeHoldsTheFetchedWord : Prop :=
  ∀ (policy : UnknownOpcodePolicy) (s t : State), s.run = .running → s.pc.toNat + 1 < 4096 → cycle policy s = .next t →
    t.opcode.toNat = 256 * (s.readByte s.pc.toNat).toNat + (s.readByte (s.pc.toNat + 1)).toNat

/-- A fault of the execute phase is precise (R96, 60_exceptions R238; log 10): an instruction that does not leave the machine Running has
changed nothing but the run state and the record; the record is of a kind the instruction can raise (R230). -/
def Obligations.ExecuteFaultsArePrecise : Prop :=
  ∀ (i : Instr) (s t : State), s.run = .running → exec i s = .next t →
    t.run = .running ∨
      ∃ kind info, HaltedBy kind info s t ∧ raisedBy kind (.instr i) = true ∧ infoFits kind info = true

/-- When an instruction faults (60_exceptions R230, 40_cycle R98): every instruction answers a next state, and it halts the machine exactly
under the condition of its row. sp <= 16 is the invariant of 10_state R25. The conditions of data accesses and key indexes are the
spec's decisions D3 and D4 (logs 5, 6). -/
def Obligations.InstructionsHaltExactlyOnTheirFaultCondition : Prop :=
  ∀ (i : Instr) (s : State), s.run = .running → s.sp.toNat ≤ 16 →
    ∃ t, exec i s = .next t ∧
      (t.run = .haltedError ↔
        match i with
        | .call _ => s.sp.toNat = 16
        | .ret => s.sp.toNat = 0
        | .skp x => 16 ≤ (s.reg x).toNat
        | .sknp x => 16 ≤ (s.reg x).toNat
        | .drw _ _ n => 0 < n.toNat ∧ 4096 ≤ s.I.toNat + n.toNat - 1
        | .ldB _ => 4096 ≤ s.I.toNat + 2
        | .stRegs x => 4096 ≤ s.I.toNat + x.toNat
        | .ldRegs x => 4096 ≤ s.I.toNat + x.toNat
        | _ => False)

/-- The successor pc of an instruction that completes, by the table of 10_state R22, as a number: with pc0 <= 4094, as fetch guarantees, no
value wraps. -/
def Obligations.SuccessorPcIsThatOfTheTable : Prop :=
  ∀ (i : Instr) (s t : State), s.run = .running → s.pc.toNat ≤ 4094 → exec i s = .next t → t.run = .running →
    match i with
    | .jp nnn => t.pc.toNat = nnn.toNat
    | .call nnn => t.pc.toNat = nnn.toNat
    | .ret => ∃ j : Fin 16, j.val + 1 = s.sp.toNat ∧ t.pc = s.stack[j.val]
    | .jpV0 nnn => t.pc.toNat = nnn.toNat + (s.reg 0#4).toNat
    | .seK x kk => t.pc.toNat = s.pc.toNat + if s.reg x = kk then 4 else 2
    | .sneK x kk => t.pc.toNat = s.pc.toNat + if s.reg x = kk then 2 else 4
    | .seV x y => t.pc.toNat = s.pc.toNat + if s.reg x = s.reg y then 4 else 2
    | .sneV x y => t.pc.toNat = s.pc.toNat + if s.reg x = s.reg y then 2 else 4
    | .skp x => t.pc.toNat = s.pc.toNat + if s.key (s.reg x).toNat = some true then 4 else 2
    | .sknp x => t.pc.toNat = s.pc.toNat + if s.key (s.reg x).toNat = some true then 2 else 4
    | .ldVK _ => t.pc.toNat = s.pc.toNat + if ∃ k : Fin 16, s.key k.val = some true then 2 else 0
    | _ => t.pc.toNat = s.pc.toNat + 2

/-- Which instructions write which state (the table of 10_state R37; 40_cycle R94, R101; 60_exceptions R251): every other instruction leaves
it unchanged, and none writes the keypad or, in its execute phase, `opcode`. -/
def Obligations.OnlyTheListedInstructionsWriteEachState : Prop :=
  ∀ (i : Instr) (s t : State), exec i s = .next t →
    SameKeys s t ∧ t.opcode = s.opcode ∧
    (match i with
      | .ldB _ => True
      | .stRegs _ => True
      | _ => SameMemory s t) ∧
    (match i with
      | .cls => True
      | .drw _ _ _ => True
      | _ => SameDisplay s t) ∧
    (match i with
      | .ret => True
      | .call _ => True
      | _ => SameStack s t) ∧
    (match i with
      | .ldI _ => True
      | .addI _ => True
      | .ldF _ => True
      | _ => SameIndex s t) ∧
    (match i with
      | .ldDtV _ => t.ST = s.ST
      | .ldStV _ => t.DT = s.DT
      | _ => SameTimers s t)

/-- R21: the instructions that write VF as a side effect are 8xy4, 8xy5, 8xy6, 8xy7, 8xyE and Dxyn; no other instruction writes VF unless
VF is its x operand. -/
def Obligations.OnlyFlagInstructionsWriteVF : Prop :=
  ∀ (i : Instr) (s t : State), exec i s = .next t → t.reg VF ≠ s.reg VF →
    match i with
    | .addV _ _ => True
    | .subV _ _ => True
    | .shr _ _ => True
    | .subn _ _ => True
    | .shl _ _ => True
    | .drw _ _ _ => True
    | .ldK x _ => x = VF
    | .addK x _ => x = VF
    | .ldV x _ => x = VF
    | .orV x _ => x = VF
    | .andV x _ => x = VF
    | .xorV x _ => x = VF
    | .rnd x _ => x = VF
    | .ldVDt x => x = VF
    | .ldVK x => x = VF
    | .ldRegs x => x = VF
    | _ => False

/-- Only Ex9E, ExA1 and Fx0A read the keypad (60_exceptions R249, 40_cycle R94): any other instruction run with another keypad ends in the
same way, with that keypad. -/
def Obligations.OnlyKeyInstructionsReadTheKeypad : Prop :=
  ∀ (i : Instr) (s t : State) (keys : Vector Bool 16),
    (∀ x, i ≠ .skp x) → (∀ x, i ≠ .sknp x) → (∀ x, i ≠ .ldVK x) → exec i s = .next t →
    exec i { s with keypad := keys } = .next { t with keypad := keys }

/-! ## Display (41_display) -/

/-- R111: CLS, the word 0x00E0, makes every cell false and pc0 + 2; nothing else changes, VF and memory among it. -/
def Obligations.ClearScreenDarkensEveryCell : Prop :=
  EncodedAs .cls 0x00E0 ∧
  ∀ s : State, ∃ t, exec .cls s = .next t ∧ (∀ x y, t.cell x y = false) ∧ t.pc = s.pc + 2#16 ∧ SameRegsBut [] s t
    ∧ SameIndex s t ∧ SameStack s t ∧ SameTimers s t ∧ SameKeys s t ∧ SameMemory s t ∧ SameStatus s t ∧ SameDraws s t

/-- R112: DRW toggles exactly the cells under the sprite's 1 bits, with wraparound, and VF is 1 exactly when one of them was set. The
coordinates are the old values, VF's too. The rest is unchanged. Bounds, statement order and bit order are the spec's decisions D3, D1
and D11 (logs 5, 3, 2). -/
def Obligations.DrawXorsTheSprite : Prop :=
  ∀ (x y : Reg) (n : Nibble) (s : State), s.I.toNat + n.toNat ≤ 4096 ∨ n = 0#4 →
    ∃ t, exec (.drw x y n) s = .next t
      ∧ (∀ px py, (SpriteCovers s (s.reg x).toNat (s.reg y).toNat n.toNat px py → t.cell px py = !(s.cell px py)) ∧
          (¬ SpriteCovers s (s.reg x).toNat (s.reg y).toNat n.toNat px py → t.cell px py = s.cell px py))
      ∧ ((∃ px py, SpriteCovers s (s.reg x).toNat (s.reg y).toNat n.toNat px py ∧ s.cell px py = true) → t.reg VF = 1#8)
      ∧ ((¬ ∃ px py, SpriteCovers s (s.reg x).toNat (s.reg y).toNat n.toNat px py ∧ s.cell px py = true) → t.reg VF = 0#8)
      ∧ t.pc = s.pc + 2#16 ∧ SameRegsBut [VF] s t ∧ SameIndex s t ∧ SameStack s t ∧ SameTimers s t ∧ SameKeys s t
      ∧ SameMemory s t ∧ SameStatus s t ∧ SameDraws s t

/-- R113: Dxyn is its own inverse on the display. After a first draw and, with the same I, coordinates, sprite bytes and no other display
write between, a second, every cell is as before the first. The first sets VF to 1 exactly when a cell under a 1 bit was set, the second
exactly when a cell under a 1 bit was clear before the first: so, when all were clear, exactly when the sprite has a 1 bit. x and y are
not 15, as the law says. R113's own sentence about the second VF lacks that case: log 31 (logs 2, 3). -/
def Obligations.DrawTwiceRestoresTheDisplay : Prop :=
  ∀ (x y : Reg) (n : Nibble) (s : State), x ≠ VF → y ≠ VF → s.I.toNat + n.toNat ≤ 4096 ∨ n = 0#4 →
    ∃ t, exec (.drw x y n) s = .next t
      ∧ (t.reg VF = 1#8 ↔ ∃ px py, SpriteCovers s (s.reg x).toNat (s.reg y).toNat n.toNat px py ∧ s.cell px py = true)
      ∧ ∀ u : State, u.I = s.I → u.reg x = s.reg x → u.reg y = s.reg y → (∀ px py, u.cell px py = t.cell px py) →
          (∀ k, k < n.toNat → u.readByte (s.I.toNat + k) = s.readByte (s.I.toNat + k)) →
          ∃ v, exec (.drw x y n) u = .next v ∧ (∀ px py, v.cell px py = s.cell px py)
            ∧ (v.reg VF = 1#8 ↔
                ∃ px py, SpriteCovers s (s.reg x).toNat (s.reg y).toNat n.toNat px py ∧ s.cell px py = false)

/-- EXPECTED TO FAIL. The sentence of R113 (a derived rule) as it is written: "The second sets VF to 1 exactly when the sprite has at least
one 1 bit." It contradicts R112: where every cell under the sprite was set before the first draw, the first clears them all and the
second finds none set (log 31). -/
def Obligations.SecondDrawAlwaysCollides : Prop :=
  ∀ (x y : Reg) (n : Nibble) (s t v : State), x ≠ VF → y ≠ VF → s.I.toNat + n.toNat ≤ 4096 →
    exec (.drw x y n) s = .next t → exec (.drw x y n) t = .next v →
    (v.reg VF = 1#8 ↔ ∃ px py, SpriteCovers s (s.reg x).toNat (s.reg y).toNat n.toNat px py)

/-! ## Control transfer (42_control) -/

/-- R131: JP, the word 0x1000 + nnn, sets pc to nnn, zero-extended, whatever nnn is, and changes nothing else. -/
def Obligations.JumpSetsPc : Prop :=
  ∀ (nnn : Addr12) (s : State), EncodedAs (.jp nnn) (0x1000 + nnn.toNat) ∧
    ∃ t, exec (.jp nnn) s = .next t ∧ t.pc.toNat = nnn.toNat ∧ OnlyRegs [] s t

/-- R137: JP V0, the word 0xB000 + nnn, sets pc to nnn + V0, an unbounded sum that does not wrap, and changes nothing else. -/
def Obligations.JumpWithOffsetAddsV0 : Prop :=
  ∀ (nnn : Addr12) (s : State), EncodedAs (.jpV0 nnn) (0xB000 + nnn.toNat) ∧
    ∃ t, exec (.jpV0 nnn) s = .next t ∧ t.pc.toNat = nnn.toNat + (s.reg 0#4).toNat ∧ OnlyRegs [] s t

/-- R132: CALL, the word 0x2000 + nnn, with sp < 16 stores pc0 + 2 in stack[sp], increments sp, sets pc to nnn and changes nothing else;
with sp >= 16 it raises StackOverflow and changes nothing. That the fault is a next state in HaltedError, with its record and no other
change, is R30, R236 and R237 and the spec's decisions D8, D9 and D23 (logs 10, 11, 20). -/
def Obligations.CallPushesTheReturnAddress : Prop :=
  ∀ (nnn : Addr12) (s : State), EncodedAs (.call nnn) (0x2000 + nnn.toNat) ∧
    (∀ j : Fin 16, s.sp.toNat = j.val →
      ∃ t, exec (.call nnn) s = .next t ∧ t.stack[j.val] = s.pc + 2#16
        ∧ (∀ k : Fin 16, k ≠ j → t.stack[k.val] = s.stack[k.val]) ∧ t.sp.toNat = j.val + 1 ∧ t.pc.toNat = nnn.toNat
        ∧ SameRegsBut [] s t ∧ SameIndex s t ∧ SameTimers s t ∧ SameKeys s t ∧ SameDisplay s t ∧ SameMemory s t
        ∧ SameStatus s t ∧ SameDraws s t) ∧
    (16 ≤ s.sp.toNat → ∃ t, exec (.call nnn) s = .next t ∧ HaltedBy .stackOverflow .none s t)

/-- R130: RET, the word 0x00EE, at sp = 0 raises StackUnderflow and changes nothing; with a live entry it decrements sp once and sets pc
to the entry, which keeps its value (R31, the spec's decision D17; log 17); nothing else changes. That the fault is a next state in
HaltedError, with its record and no other change, is R30, R236 and R237 and the decisions D8, D9 and D23 (logs 10, 11, 20). -/
def Obligations.ReturnPopsTheReturnAddress : Prop :=
  EncodedAs .ret 0x00EE ∧
  ∀ s : State,
    (s.sp.toNat = 0 → ∃ t, exec .ret s = .next t ∧ HaltedBy .stackUnderflow .none s t) ∧
    (∀ j : Fin 16, s.sp.toNat = j.val + 1 →
      ∃ t, exec .ret s = .next t ∧ t.sp.toNat = j.val ∧ t.pc = s.stack[j.val] ∧ t.stack = s.stack ∧ SameRegsBut [] s t
        ∧ SameIndex s t ∧ SameTimers s t ∧ SameKeys s t ∧ SameDisplay s t ∧ SameMemory s t ∧ SameStatus s t ∧ SameDraws s t)

/-- The model's choice (log 24): RET stops with a fault of the model's own where sp is above 16, a state that 10_state R25 says never
arises, and nowhere else. -/
def Obligations.ReturnStopsOnlyOutsideTheStack : Prop :=
  ∀ s : State, (∃ f, exec .ret s = .fault f) ↔ 16 < s.sp.toNat

/-- R133, R134: SE and SNE with an immediate, the words 0x3xkk and 0x4xkk, skip one word, pc0 + 4, when V[x] equals, differs from, kk;
else pc0 + 2. Nothing else changes. -/
def Obligations.ImmediateSkipsCompareARegister : Prop :=
  ∀ (x : Reg) (kk : Byte) (s : State),
    EncodedAs (.seK x kk) (0x3000 + 0x100 * x.toNat + kk.toNat) ∧ EncodedAs (.sneK x kk) (0x4000 + 0x100 * x.toNat + kk.toNat) ∧
    (∃ t, exec (.seK x kk) s = .next t
      ∧ t.pc = (if (s.reg x).toNat = kk.toNat then s.pc + 4#16 else s.pc + 2#16) ∧ OnlyRegs [] s t) ∧
    (∃ t, exec (.sneK x kk) s = .next t
      ∧ t.pc = (if (s.reg x).toNat = kk.toNat then s.pc + 2#16 else s.pc + 4#16) ∧ OnlyRegs [] s t)

/-- R135, R136: SE and SNE with two registers, V[x] against V[y]; x = y always skips, never skips. -/
def Obligations.RegisterSkipsCompareTwoRegisters : Prop :=
  ∀ (x y : Reg) (s : State),
    (∃ t, exec (.seV x y) s = .next t
      ∧ t.pc = (if (s.reg x).toNat = (s.reg y).toNat then s.pc + 4#16 else s.pc + 2#16) ∧ OnlyRegs [] s t) ∧
    (∃ t, exec (.sneV x y) s = .next t
      ∧ t.pc = (if (s.reg x).toNat = (s.reg y).toNat then s.pc + 2#16 else s.pc + 4#16) ∧ OnlyRegs [] s t)

/-- R139: a CALL with sp < 16 whose target holds a RET: two steps later pc is the address after the CALL, sp and the live stack entries are
as they were, and registers and memory are unchanged. -/
def Obligations.CallThenReturnComesBack : Prop :=
  ∀ (policy : UnknownOpcodePolicy) (s : State) (nnn : Addr12), s.run = .running → s.pc.toNat + 1 < 4096 →
    decodeBytes [s.readByte s.pc.toNat, s.readByte (s.pc.toNat + 1)] = .instr (.call nnn) [] → s.sp.toNat < 16 →
    nnn.toNat + 1 < 4096 → s.readByte nnn.toNat = 0x00#8 → s.readByte (nnn.toNat + 1) = 0xEE#8 →
    ∃ t u, cycle policy s = .next t ∧ t.pc.toNat = nnn.toNat ∧ cycle policy t = .next u ∧ u.pc.toNat = s.pc.toNat + 2
      ∧ u.sp = s.sp ∧ (∀ j : Fin 16, j.val < s.sp.toNat → u.stack[j.val] = s.stack[j.val])
      ∧ u.run = .running ∧ SameRegsBut [] s u ∧ SameIndex s u ∧ SameMemory s u

/-- R131, 70_reset_and_hazards R283 (b): the idle loop. A 1nnn at its own address nnn leaves every field unchanged but `opcode`, which takes
the word; once `opcode` holds it, the state is a fixed point of `step`. -/
def Obligations.SelfJumpIsAFixedPoint : Prop :=
  ∀ (s : State) (nnn : Addr12), s.run = .running → s.pc.toNat + 1 < 4096 → s.pc.toNat = nnn.toNat →
    decodeBytes [s.readByte s.pc.toNat, s.readByte (s.pc.toNat + 1)] = .instr (.jp nnn) [] →
    step s = .next { s with opcode := encode (.jp nnn) } ∧ (s.opcode = encode (.jp nnn) → step s = .next s)

/-! ## Registers and arithmetic (43_alu) -/

/-- R161, R162: LD Vx, kk, the word 0x6xkk, loads kk; ADD Vx, kk, the word 0x7xkk, adds it modulo 256 and writes no flag. pc0 + 2; nothing
else changes. -/
def Obligations.ImmediateLoadAndAdd : Prop :=
  ∀ (x : Reg) (kk : Byte) (s : State),
    EncodedAs (.ldK x kk) (0x6000 + 0x100 * x.toNat + kk.toNat) ∧ EncodedAs (.addK x kk) (0x7000 + 0x100 * x.toNat + kk.toNat) ∧
    (∃ t, exec (.ldK x kk) s = .next t ∧ (t.reg x).toNat = kk.toNat ∧ t.pc = s.pc + 2#16 ∧ OnlyRegs [x] s t) ∧
    (∃ t, exec (.addK x kk) s = .next t ∧ (t.reg x).toNat = ((s.reg x).toNat + kk.toNat) % 256 ∧ t.pc = s.pc + 2#16
      ∧ OnlyRegs [x] s t)

/-- R163 to R166: LD, OR, AND and XOR, the words 0x8xy0 to 0x8xy3, of V[x] and V[y], bit by bit; no flag. pc0 + 2; nothing else changes. -/
def Obligations.CopyAndBitwiseOperations : Prop :=
  ∀ (x y : Reg) (s : State),
    EncodedAs (.ldV x y) (0x8000 + 0x100 * x.toNat + 0x10 * y.toNat) ∧ EncodedAs (.orV x y) (0x8001 + 0x100 * x.toNat + 0x10 * y.toNat) ∧
    EncodedAs (.andV x y) (0x8002 + 0x100 * x.toNat + 0x10 * y.toNat) ∧ EncodedAs (.xorV x y) (0x8003 + 0x100 * x.toNat + 0x10 * y.toNat) ∧
    (∃ t, exec (.ldV x y) s = .next t ∧ (∀ k, (t.reg x).getLsbD k = (s.reg y).getLsbD k) ∧ t.pc = s.pc + 2#16
      ∧ OnlyRegs [x] s t) ∧
    (∃ t, exec (.orV x y) s = .next t ∧ (∀ k, (t.reg x).getLsbD k = ((s.reg x).getLsbD k || (s.reg y).getLsbD k))
      ∧ t.pc = s.pc + 2#16 ∧ OnlyRegs [x] s t) ∧
    (∃ t, exec (.andV x y) s = .next t ∧ (∀ k, (t.reg x).getLsbD k = ((s.reg x).getLsbD k && (s.reg y).getLsbD k))
      ∧ t.pc = s.pc + 2#16 ∧ OnlyRegs [x] s t) ∧
    (∃ t, exec (.xorV x y) s = .next t ∧ (∀ k, (t.reg x).getLsbD k = ((s.reg x).getLsbD k ^^ (s.reg y).getLsbD k))
      ∧ t.pc = s.pc + 2#16 ∧ OnlyRegs [x] s t)

/-- R167: ADD Vx, Vy: the sum of the old values modulo 256; VF is the carry, 1 exactly when the sum exceeds 255, but when x = 15 VF holds the
sum (R160, the spec's decision D1; log 3). -/
def Obligations.AddSetsTheCarry : Prop :=
  ∀ (x y : Reg) (s : State),
    ∃ t, exec (.addV x y) s = .next t
      ∧ (t.reg x).toNat = ((s.reg x).toNat + (s.reg y).toNat) % 256
      ∧ (x ≠ VF → (t.reg VF).toNat = if 255 < (s.reg x).toNat + (s.reg y).toNat then 1 else 0)
      ∧ t.pc = s.pc + 2#16 ∧ OnlyRegs [x, VF] s t

/-- R168, R170: SUB and SUBN. The flag f is 1 for no borrow; the difference is taken modulo 256 after f is written to VF, so an operand that
is VF reads as f; when x = 15 VF ends as the difference (R160, the spec's decision D1; log 3). -/
def Obligations.SubtractSetsNoBorrow : Prop :=
  ∀ (x y : Reg) (s : State),
    (let f : Nat := if (s.reg y).toNat ≤ (s.reg x).toNat then 1 else 0
     let a : Nat := if x = VF then f else (s.reg x).toNat
     let b : Nat := if y = VF then f else (s.reg y).toNat
     ∃ t, exec (.subV x y) s = .next t ∧ (t.reg x).toNat = (a + 256 - b) % 256 ∧ (x ≠ VF → (t.reg VF).toNat = f)
       ∧ t.pc = s.pc + 2#16 ∧ OnlyRegs [x, VF] s t) ∧
    (let f : Nat := if (s.reg x).toNat ≤ (s.reg y).toNat then 1 else 0
     let a : Nat := if x = VF then f else (s.reg x).toNat
     let b : Nat := if y = VF then f else (s.reg y).toNat
     ∃ t, exec (.subn x y) s = .next t ∧ (t.reg x).toNat = (b + 256 - a) % 256 ∧ (x ≠ VF → (t.reg VF).toNat = f)
       ∧ t.pc = s.pc + 2#16 ∧ OnlyRegs [x, VF] s t)

/-- R169, R171: SHR and SHL by one bit; VF is the bit shifted out, but when x = 15 it is the flag shifted in its turn; V[y] is not read
(R160, the spec's decision D1; log 3). -/
def Obligations.ShiftsMoveOneBitIntoVF : Prop :=
  ∀ (x y : Reg) (s : State),
    (∃ t, exec (.shr x y) s = .next t
      ∧ (t.reg x).toNat = (if x = VF then 0 else (s.reg x).toNat / 2)
      ∧ (x ≠ VF → (t.reg VF).toNat = (s.reg x).toNat % 2) ∧ t.pc = s.pc + 2#16 ∧ OnlyRegs [x, VF] s t) ∧
    (∃ t, exec (.shl x y) s = .next t
      ∧ (t.reg x).toNat = (if x = VF then 2 * ((s.reg x).toNat / 128) else (2 * (s.reg x).toNat) % 256)
      ∧ (x ≠ VF → (t.reg VF).toNat = (s.reg x).toNat / 128) ∧ t.pc = s.pc + 2#16 ∧ OnlyRegs [x, VF] s t)

/-- R172: RND takes the bits of the random byte under kk, so kk = 0 gives 0; pc0 + 2, and nothing else changes but the model's count of
draws. `exec` draws the model's next free byte, of which nothing is known (log 12); `State.random`, which it calls, does the same for every
byte the step may draw. -/
def Obligations.RandomByteIsMasked : Prop :=
  ∀ (x : Reg) (kk : Byte) (s : State),
    (∃ t, exec (.rnd x kk) s = .next t
      ∧ (∀ k, (t.reg x).getLsbD k = ((Config.rand s.draws).getLsbD k && kk.getLsbD k)) ∧ (kk = 0#8 → t.reg x = 0#8)
      ∧ t.pc = s.pc + 2#16 ∧ t.draws = s.draws + 1 ∧ SameRegsBut [x] s t ∧ SameIndex s t ∧ SameStack s t ∧ SameTimers s t
      ∧ SameKeys s t ∧ SameDisplay s t ∧ SameMemory s t ∧ SameStatus s t) ∧
    (∀ rand : Byte, ∃ t, s.random rand x kk = .next t
      ∧ (∀ k, (t.reg x).getLsbD k = (rand.getLsbD k && kk.getLsbD k)) ∧ (kk = 0#8 → t.reg x = 0#8)
      ∧ t.pc = s.pc + 2#16 ∧ t.draws = s.draws + 1 ∧ SameRegsBut [x] s t ∧ SameIndex s t ∧ SameStack s t ∧ SameTimers s t
      ∧ SameKeys s t ∧ SameDisplay s t ∧ SameMemory s t ∧ SameStatus s t)

/-! ## Index register and memory (44_index_memory) -/

/-- R191, R192: LD I, nnn, the word 0xAnnn, loads the zero-extended address; ADD I, Vx, the word 0xFx1E, adds modulo 2^16 and writes no
flag. pc0 + 2; nothing else changes. -/
def Obligations.IndexLoadAndAdd : Prop :=
  ∀ s : State,
    (∀ nnn : Addr12, EncodedAs (.ldI nnn) (0xA000 + nnn.toNat) ∧
      ∃ t, exec (.ldI nnn) s = .next t ∧ t.I.toNat = nnn.toNat ∧ t.pc = s.pc + 2#16 ∧ SameRegsBut [] s t
      ∧ SameStack s t ∧ SameTimers s t ∧ SameKeys s t ∧ SameDisplay s t ∧ SameMemory s t ∧ SameStatus s t ∧ SameDraws s t) ∧
    (∀ x : Reg, EncodedAs (.addI x) (0xF01E + 0x100 * x.toNat) ∧
      ∃ t, exec (.addI x) s = .next t ∧ t.I.toNat = (s.I.toNat + (s.reg x).toNat) % 65536 ∧ t.pc = s.pc + 2#16
      ∧ SameRegsBut [] s t ∧ SameStack s t ∧ SameTimers s t ∧ SameKeys s t ∧ SameDisplay s t ∧ SameMemory s t
      ∧ SameStatus s t ∧ SameDraws s t)

/-- R193: LD F, Vx points I at 0x50 + 5 V[x], with no mask on V[x] (the spec's decision D14; log 14). -/
def Obligations.FontAddressOfADigit : Prop :=
  ∀ (x : Reg) (s : State),
    ∃ t, exec (.ldF x) s = .next t ∧ t.I.toNat = 0x50 + 5 * (s.reg x).toNat ∧ t.pc = s.pc + 2#16 ∧ SameRegsBut [] s t
      ∧ SameStack s t ∧ SameTimers s t ∧ SameKeys s t ∧ SameDisplay s t ∧ SameMemory s t ∧ SameStatus s t ∧ SameDraws s t

/-- R195: LD B, Vx stores hundreds, tens and ones of V[x] at I, I + 1, I + 2; every other byte and all else is unchanged, I too (bounds: the
spec's decision D3; log 5). -/
def Obligations.DecimalDigitsAreStored : Prop :=
  ∀ (x : Reg) (s : State), s.I.toNat + 2 < 4096 →
    ∃ t, exec (.ldB x) s = .next t
      ∧ (t.readByte s.I.toNat).toNat = (s.reg x).toNat / 100
      ∧ (t.readByte (s.I.toNat + 1)).toNat = (s.reg x).toNat / 10 % 10
      ∧ (t.readByte (s.I.toNat + 2)).toNat = (s.reg x).toNat % 10
      ∧ SameMemoryOutside s.I.toNat 3 s t ∧ t.pc = s.pc + 2#16 ∧ SameRegsBut [] s t ∧ SameIndex s t ∧ SameStack s t
      ∧ SameTimers s t ∧ SameKeys s t ∧ SameDisplay s t ∧ SameStatus s t ∧ SameDraws s t

/-- R196: LD [I], Vx stores V0..Vx at I, ..., I + x; every other byte and all else is unchanged, I too (the spec's decisions D3 and D13;
logs 5, 13). -/
def Obligations.RegistersAreStored : Prop :=
  ∀ (x : Reg) (s : State), s.I.toNat + x.toNat < 4096 →
    ∃ t, exec (.stRegs x) s = .next t
      ∧ (∀ r : Reg, r.toNat ≤ x.toNat → t.readByte (s.I.toNat + r.toNat) = s.reg r)
      ∧ SameMemoryOutside s.I.toNat (x.toNat + 1) s t ∧ t.pc = s.pc + 2#16 ∧ SameRegsBut [] s t ∧ SameIndex s t
      ∧ SameStack s t ∧ SameTimers s t ∧ SameKeys s t ∧ SameDisplay s t ∧ SameStatus s t ∧ SameDraws s t

/-- R197: LD Vx, [I] loads V0..Vx from I, ..., I + x; the registers above x and all else are unchanged, I too (the spec's decisions D3 and
D13; logs 5, 13). -/
def Obligations.RegistersAreLoaded : Prop :=
  ∀ (x : Reg) (s : State), s.I.toNat + x.toNat < 4096 →
    ∃ t, exec (.ldRegs x) s = .next t
      ∧ (∀ r : Reg, r.toNat ≤ x.toNat → t.reg r = s.readByte (s.I.toNat + r.toNat))
      ∧ (∀ r : Reg, x.toNat < r.toNat → t.reg r = s.reg r)
      ∧ t.pc = s.pc + 2#16 ∧ SameIndex s t ∧ SameStack s t ∧ SameTimers s t ∧ SameKeys s t ∧ SameDisplay s t ∧ SameMemory s t
      ∧ SameStatus s t ∧ SameDraws s t

/-- R194, 60_exceptions R234: a data access of Dxyn, Fx33, Fx55 or Fx65 that reaches 4096 raises DataOutOfBounds with the lowest such
address, max(I, 4096), and changes nothing (the spec's decisions D3 and D8; logs 5, 10). -/
def Obligations.DataBeyondMemoryHalts : Prop :=
  ∀ (x y : Reg) (n : Nibble) (s : State),
    (4096 ≤ s.I.toNat + 2 →
      ∃ t, exec (.ldB x) s = .next t ∧ HaltedBy .dataOutOfBounds (.address (max s.I.toNat 4096)) s t) ∧
    (4096 ≤ s.I.toNat + x.toNat →
      (∃ t, exec (.stRegs x) s = .next t ∧ HaltedBy .dataOutOfBounds (.address (max s.I.toNat 4096)) s t) ∧
      (∃ t, exec (.ldRegs x) s = .next t ∧ HaltedBy .dataOutOfBounds (.address (max s.I.toNat 4096)) s t)) ∧
    (n ≠ 0#4 → 4096 < s.I.toNat + n.toNat →
      ∃ t, exec (.drw x y n) s = .next t ∧ HaltedBy .dataOutOfBounds (.address (max s.I.toNat 4096)) s t)

/-- R198: Fx55 then, with the same I and the bytes at I..I + x unwritten in between, Fx65 restores V0..Vx (logs 5, 13). -/
def Obligations.StoreThenLoadRestoresRegisters : Prop :=
  ∀ (x : Reg) (s : State), s.I.toNat + x.toNat < 4096 →
    ∃ t, exec (.stRegs x) s = .next t ∧
      ∀ u : State, u.I = s.I → (∀ k, k ≤ x.toNat → u.readByte (s.I.toNat + k) = t.readByte (s.I.toNat + k)) →
        ∃ v, exec (.ldRegs x) u = .next v ∧ ∀ r : Reg, r.toNat ≤ x.toNat → v.reg r = s.reg r

/-- 20_memory R64: a store is seen by the next fetch: where Fx55 stores over the next instruction, the next fetch reads the registers'
bytes, big-endian (the spec's decision D15; log 15). -/
def Obligations.StoreIsSeenByTheNextFetch : Prop :=
  ∀ (x p q : Reg) (s : State), s.I.toNat + x.toNat < 4096 → q.toNat = p.toNat + 1 → q.toNat ≤ x.toNat →
    (s.pc + 2#16).toNat = s.I.toNat + p.toNat →
    ∃ t, exec (.stRegs x) s = .next t ∧ t.fetch = some (BitVec.ofNat 16 (256 * (s.reg p).toNat + (s.reg q).toNat))

/-! ## Keypad and timers (45_keys_timers) -/

/-- R210, R211: SKP skips when key V[x] is pressed, SKNP when it is not, for V[x] < 16; nothing else changes. For V[x] >= 16 both raise
BadKeyIndex(V[x]) and change nothing (R216, the spec's decision D4; log 6). -/
def Obligations.KeySkipsReadTheKey : Prop :=
  ∀ (x : Reg) (s : State),
    (∀ k : Fin 16, (s.reg x).toNat = k.val →
      (∃ t, exec (.skp x) s = .next t ∧ t.pc = (if s.keypad[k.val] = true then s.pc + 4#16 else s.pc + 2#16) ∧ OnlyRegs [] s t) ∧
      (∃ t, exec (.sknp x) s = .next t ∧ t.pc = (if s.keypad[k.val] = true then s.pc + 2#16 else s.pc + 4#16) ∧ OnlyRegs [] s t)) ∧
    (16 ≤ (s.reg x).toNat →
      (∃ t, exec (.skp x) s = .next t ∧ HaltedBy .badKeyIndex (.key (s.reg x)) s t) ∧
      (∃ t, exec (.sknp x) s = .next t ∧ HaltedBy .badKeyIndex (.key (s.reg x)) s t))

/-- R213: with a key pressed, LD Vx, K completes with V[x] the lowest pressed index (the spec's decision D5; log 7); with none it holds pc
and changes nothing. -/
def Obligations.WaitForKeyHoldsOrTakesTheLowest : Prop :=
  ∀ (x : Reg) (s : State),
    (∀ k : Fin 16, s.keypad[k.val] = true → (∀ j : Fin 16, j.val < k.val → s.keypad[j.val] = false) →
      ∃ t, exec (.ldVK x) s = .next t ∧ (t.reg x).toNat = k.val ∧ t.pc = s.pc + 2#16 ∧ OnlyRegs [x] s t) ∧
    ((∀ k : Fin 16, s.keypad[k.val] = false) → exec (.ldVK x) s = .next s)

/-- R212, R214, R215: LD Vx, DT, the word 0xFx07, reads the delay timer; LD DT, Vx and LD ST, Vx, 0xFx15 and 0xFx18, set the timers.
pc0 + 2; nothing else changes. -/
def Obligations.TimerInstructionsMoveBytes : Prop :=
  ∀ (x : Reg) (s : State),
    EncodedAs (.ldVDt x) (0xF007 + 0x100 * x.toNat) ∧ EncodedAs (.ldDtV x) (0xF015 + 0x100 * x.toNat) ∧
    EncodedAs (.ldStV x) (0xF018 + 0x100 * x.toNat) ∧
    (∃ t, exec (.ldVDt x) s = .next t ∧ t.reg x = s.DT ∧ t.pc = s.pc + 2#16 ∧ OnlyRegs [x] s t) ∧
    (∃ t, exec (.ldDtV x) s = .next t ∧ t.DT = s.reg x ∧ t.ST = s.ST ∧ t.pc = s.pc + 2#16 ∧ SameRegsBut [] s t ∧ SameIndex s t
      ∧ SameStack s t ∧ SameKeys s t ∧ SameDisplay s t ∧ SameMemory s t ∧ SameStatus s t ∧ SameDraws s t) ∧
    (∃ t, exec (.ldStV x) s = .next t ∧ t.ST = s.reg x ∧ t.DT = s.DT ∧ t.pc = s.pc + 2#16 ∧ SameRegsBut [] s t ∧ SameIndex s t
      ∧ SameStack s t ∧ SameKeys s t ∧ SameDisplay s t ∧ SameMemory s t ∧ SameStatus s t ∧ SameDraws s t)

/-- A step moves no timer but through Fx15 and Fx18, and never the keypad (40_cycle R101). -/
def Obligations.StepsMoveTimersOnlyByFx15AndFx18 : Prop :=
  ∀ (policy : UnknownOpcodePolicy) (s t : State), cycle policy s = .next t →
    SameKeys s t ∧
    (SameTimers s t ∨ ∃ x w, s.fetch = some w ∧
      ((decode w = .instr (.ldDtV x) ∧ t.DT = s.reg x ∧ t.ST = s.ST) ∨
       (decode w = .instr (.ldStV x) ∧ t.ST = s.reg x ∧ t.DT = s.DT)))

/-! ## Host operations (60_exceptions, 70_reset_and_hazards) -/

/-- R245, R247: tick_timers run k times takes k from each timer, never below 0, and changes nothing else, in HaltedError too (the spec's
decision D9; log 11). -/
def Obligations.TimersCountDownToZero : Prop :=
  ∀ (session : Session) (k : Nat) (s : State),
    ∃ t, runSchedule session (List.replicate k .tickTimers) s = .next t
      ∧ t.DT.toNat = s.DT.toNat - k ∧ t.ST.toNat = s.ST.toNat - k
      ∧ { t with DT := s.DT, ST := s.ST } = s

/-- R248, R250: set_key sets one key for k < 16 and is refused, changing nothing, for k >= 16; pixel reads one cell inside 64 × 32 and is
refused outside; neither changes anything else (the spec's decision D21; log 19). -/
def Obligations.KeyAndPixelPorts : Prop :=
  ∀ (session : Session) (s : State) (k x y : Nat) (pressed : Bool),
    (∀ h : k < 16, ∃ t, perform session (.setKey k pressed) s = .next (t, .done) ∧ t.keypad[k] = pressed
      ∧ (∀ j : Fin 16, j.val ≠ k → t.keypad[j.val] = s.keypad[j.val]) ∧ { t with keypad := s.keypad } = s) ∧
    (16 ≤ k → perform session (.setKey k pressed) s = .next (s, .refused)) ∧
    (∀ (hx : x < 64) (hy : y < 32), perform session (.pixel x y) s = .next (s, .bit (s.cell ⟨x, hx⟩ ⟨y, hy⟩))) ∧
    (64 ≤ x ∨ 32 ≤ y → perform session (.pixel x y) s = .next (s, .refused))

/-- R252: sound_timer returns ST and changes nothing; the block's sound output is on exactly while ST > 0. -/
def Obligations.SoundOutputIsOnWhileSTIsPositive : Prop :=
  ∀ (session : Session) (s : State),
    perform session .soundTimer s = .next (s, .byte s.ST) ∧ (s.tone = true ↔ s.ST ≠ 0#8)

/-- R254: dump returns V0..VF, I, pc, sp, DT, ST and opcode as values, and changes nothing (the spec's decision D26; log 22). -/
def Obligations.DumpReturnsTheRegisters : Prop :=
  ∀ (session : Session) (s : State), ∃ d, perform session .dump s = .next (s, .dumped d)
    ∧ (∀ r : Reg, d.V[r.toNat]'r.isLt = s.reg r) ∧ d.I = s.I ∧ d.pc = s.pc ∧ d.sp = s.sp ∧ d.DT = s.DT ∧ d.ST = s.ST
    ∧ d.opcode = s.opcode

/-- R262, R263, R264: the host operation `load` is `State.load`: a load that fits writes its bytes at 0x200, sets pc to 0x200 and changes
nothing else; one that does not fails with OutOfSpace and changes nothing (the spec's decision D16; log 16). -/
def Obligations.LoadPlacesTheProgram : Prop :=
  ∀ (session : Session) (s : State) (bytes : List Byte),
    perform session (.load bytes) s = .next ((s.load bytes).1, .loaded (s.load bytes).2) ∧
    (0x200 + bytes.length ≤ 4096 →
      (s.load bytes).2 = .ok ∧ (s.load bytes).1.pc = 0x200#16
        ∧ (∀ k, k < bytes.length → bytes[k]? = some ((s.load bytes).1.readByte (0x200 + k)))
        ∧ SameMemoryOutside 0x200 bytes.length s (s.load bytes).1
        ∧ { (s.load bytes).1 with pc := s.pc, mem := s.mem } = s) ∧
    (4096 < 0x200 + bytes.length → s.load bytes = (s, .outOfSpace bytes.length))

/-- R260, 10_state R35: what construct() leaves, with FONT at its default: every register, key and cell zero, Running with no record, the
80 bytes of the table of 20_memory R66 at 0x050..0x09F and every other byte 0; and the host operation gives that state whatever went
before, but for the model's count of draws (log 12). The font bytes are the spec's from general knowledge (its decision D12; log 1). -/
def Obligations.ConstructZeroesAllButTheFont : Prop :=
  let glyphs : List (List Nat) :=
    [[0xF0, 0x90, 0x90, 0x90, 0xF0], [0x20, 0x60, 0x20, 0x20, 0x70], [0xF0, 0x10, 0xF0, 0x80, 0xF0], [0xF0, 0x10, 0xF0, 0x10, 0xF0],
     [0x90, 0x90, 0xF0, 0x10, 0x10], [0xF0, 0x80, 0xF0, 0x10, 0xF0], [0xF0, 0x80, 0xF0, 0x90, 0xF0], [0xF0, 0x10, 0x20, 0x40, 0x40],
     [0xF0, 0x90, 0xF0, 0x90, 0xF0], [0xF0, 0x90, 0xF0, 0x10, 0xF0], [0xF0, 0x90, 0xF0, 0x90, 0x90], [0xE0, 0x90, 0xE0, 0x90, 0xE0],
     [0xF0, 0x80, 0x80, 0x80, 0xF0], [0xE0, 0x90, 0x90, 0x90, 0xE0], [0xF0, 0x80, 0xF0, 0x80, 0xF0], [0xF0, 0x80, 0xF0, 0x80, 0x80]]
  (∀ r, State.reset.reg r = 0#8) ∧ State.reset.I = 0#16 ∧ State.reset.pc = 0#16 ∧ State.reset.sp = 0#8
    ∧ (∀ j : Fin 16, State.reset.stack[j.val] = 0#16) ∧ State.reset.DT = 0#8 ∧ State.reset.ST = 0#8
    ∧ (∀ k : Fin 16, State.reset.keypad[k.val] = false) ∧ (∀ x y, State.reset.cell x y = false)
    ∧ State.reset.opcode = 0#16 ∧ State.reset.run = .running ∧ State.reset.fault = none
    ∧ (∀ d row : Nat, d < 16 → row < 5 →
        ((glyphs.getD d []).getD row 0) = (State.reset.readByte (0x050 + 5 * d + row)).toNat)
    ∧ (∀ a, ¬ (0x050 ≤ a ∧ a < 0x0A0) → State.reset.readByte a = 0#8)
    ∧ (∀ (policy : UnknownOpcodePolicy) (s : State),
        perform { policy := policy } .construct s = .next ({ State.reset with draws := s.draws }, .done))

/-- R260, R261 with any FONT (00_scope R9, 93_implementation_defined U19): construct() gives State.reset, whatever went before, but for the
font area, which holds the 80 bytes of the session's FONT, and the model's count of draws (log 12). Its memory is canonical (log 1). -/
def Obligations.ConstructCopiesTheFont : Prop :=
  ∀ (session : Session) (s : State), ∃ t, perform session .construct s = .next (t, .done)
    ∧ { t with mem := State.reset.mem, draws := State.reset.draws } = State.reset ∧ t.draws = s.draws
    ∧ (∀ k : Fin 80, t.readByte (0x050 + k.val) = session.font[k.val])
    ∧ (∀ a, ¬ (0x050 ≤ a ∧ a < 0x0A0) → t.readByte a = 0#8) ∧ Memory.wf t.mem

/-! ## Memory (20_memory) -/

/-- The canonical form (the model's own, log 1): two memories in it that read alike at every address are equal data. -/
def Obligations.EqualMemoriesAreEqualData : Prop :=
  ∀ m m' : Memory, Memory.wf m → Memory.wf m' → (∀ a, Memory.read m a = Memory.read m' a) → m = m'

/-! ## The invariant -/

/-- The invariant holds after construct(). -/
def Obligations.InvariantHoldsAtReset : Prop := State.reset.Inv

/-- Every step keeps the invariant, from every state that has it, under either policy: canonical memory, sp in 0..16 (10_state R25), pc at
most 0x10FE (R22), return addresses at most 0x1000, a sound record exactly in HaltedError (R30, 60_exceptions R230, R237; logs 11, 20). -/
def Obligations.EveryStepKeepsTheInvariant : Prop :=
  ∀ s t : State, s.Inv →
    (step s = .next t → t.Inv) ∧ (∀ policy, cycle policy s = .next t → t.Inv)

/-- A machine with the invariant never stops: every step, and every schedule of host operations, finite of any length or infinite, in any
order (00_scope R7, 70_reset_and_hazards R275), answers a next state, and it has the invariant. So it is from construct() on. An infinite
schedule is after n operations where the finite schedule of its first n operations ends. -/
def Obligations.EverySchedulePreservesTheInvariant : Prop :=
  ∀ session : Session,
    (∀ (ops : List HostOp) (s : State), s.Inv → ∃ t, runSchedule session ops s = .next t ∧ t.Inv) ∧
    (∀ (ops : InfiniteSchedule) (s : State), s.Inv → ∀ n,
      ∃ t, runInfinite session ops s n = .next t ∧ runSchedule session ((List.range n).map ops) s = .next t ∧ t.Inv) ∧
    (∀ ops : List HostOp, ∃ t, runSchedule session ops State.reset = .next t ∧ t.Inv)

end
end

