-- ==== Sys2Proof/Laws/Decode.lean ====
section
/-!
SUPPORT. Fields as quotients and remainders of a word's number, the numbers of encoded words, and the fields of encoded words.
-/
namespace Sys2Proof

/-! ## Fields as numbers (R71) -/

theorem opField_toNat (w : Word) : (opField w).toNat = w.toNat / 4096 := by
  have := w.isLt
  simp [opField, Nat.shiftRight_eq_div_pow]; omega

theorem xField_toNat (w : Word) : (xField w).toNat = w.toNat / 256 % 16 := by
  simp [xField, Nat.shiftRight_eq_div_pow]

theorem yField_toNat (w : Word) : (yField w).toNat = w.toNat / 16 % 16 := by
  simp [yField, Nat.shiftRight_eq_div_pow]

theorem nField_toNat (w : Word) : (nField w).toNat = w.toNat % 16 := by
  simp [nField]

theorem kkField_toNat (w : Word) : (kkField w).toNat = w.toNat % 256 := by
  simp [kkField]

theorem nnnField_toNat (w : Word) : (nnnField w).toNat = w.toNat % 4096 := by
  simp [nnnField]

/-! ## Encoded words as numbers (R72) -/

theorem encodeNnn_toNat (op : Nibble) (nnn : Addr12) : (encodeNnn op nnn).toNat = op.toNat * 4096 + nnn.toNat := by
  have h := BitVec.toNat_append op nnn
  have h2 := nnn.isLt
  rw [← Nat.shiftLeft_add_eq_or_of_lt h2, Nat.shiftLeft_eq] at h
  exact h

theorem encodeXkk_toNat (op : Nibble) (x : Reg) (kk : Byte) :
    (encodeXkk op x kk).toNat = op.toNat * 4096 + x.toNat * 256 + kk.toNat := by
  have h1 := BitVec.toNat_append op x
  have h := BitVec.toNat_append (op ++ x) kk
  rw [← Nat.shiftLeft_add_eq_or_of_lt kk.isLt, Nat.shiftLeft_eq, h1, ← Nat.shiftLeft_add_eq_or_of_lt x.isLt, Nat.shiftLeft_eq] at h
  show ((op ++ x) ++ kk).toNat = _
  rw [h]; omega

theorem encodeXyn_toNat (op : Nibble) (x y : Reg) (n : Nibble) :
    (encodeXyn op x y n).toNat = op.toNat * 4096 + x.toNat * 256 + y.toNat * 16 + n.toNat := by
  have h0 := BitVec.toNat_append op x
  have h1 := BitVec.toNat_append (op ++ x) y
  have h := BitVec.toNat_append ((op ++ x) ++ y) n
  rw [← Nat.shiftLeft_add_eq_or_of_lt n.isLt, Nat.shiftLeft_eq, h1, ← Nat.shiftLeft_add_eq_or_of_lt y.isLt, Nat.shiftLeft_eq, h0,
    ← Nat.shiftLeft_add_eq_or_of_lt x.isLt, Nat.shiftLeft_eq] at h
  show (((op ++ x) ++ y) ++ n).toNat = _
  rw [h]; omega

theorem wordOfBytes_toNat (hi lo : Byte) : (wordOfBytes hi lo).toNat = 256 * hi.toNat + lo.toNat := by
  have h := BitVec.toNat_append hi lo
  rw [← Nat.shiftLeft_add_eq_or_of_lt lo.isLt, Nat.shiftLeft_eq] at h
  show (hi ++ lo).toNat = _
  rw [h]; omega

/-! ## Fields of encoded words -/

section
variable (op x y n : Nibble) (kk : Byte) (nnn : Addr12)

@[simp] theorem opField_encodeNnn : opField (encodeNnn op nnn) = op := by
  apply BitVec.eq_of_toNat_eq; rw [opField_toNat, encodeNnn_toNat]; have := nnn.isLt; omega

@[simp] theorem nnnField_encodeNnn : nnnField (encodeNnn op nnn) = nnn := by
  apply BitVec.eq_of_toNat_eq; rw [nnnField_toNat, encodeNnn_toNat]; have := nnn.isLt; omega

@[simp] theorem opField_encodeXkk : opField (encodeXkk op x kk) = op := by
  apply BitVec.eq_of_toNat_eq; rw [opField_toNat, encodeXkk_toNat]; have := x.isLt; have := kk.isLt; omega

@[simp] theorem xField_encodeXkk : xField (encodeXkk op x kk) = x := by
  apply BitVec.eq_of_toNat_eq; rw [xField_toNat, encodeXkk_toNat]; have := x.isLt; have := kk.isLt; omega

@[simp] theorem kkField_encodeXkk : kkField (encodeXkk op x kk) = kk := by
  apply BitVec.eq_of_toNat_eq; rw [kkField_toNat, encodeXkk_toNat]; have := x.isLt; have := kk.isLt; omega

@[simp] theorem opField_encodeXyn : opField (encodeXyn op x y n) = op := by
  apply BitVec.eq_of_toNat_eq; rw [opField_toNat, encodeXyn_toNat]
  have := x.isLt; have := y.isLt; have := n.isLt; omega

@[simp] theorem xField_encodeXyn : xField (encodeXyn op x y n) = x := by
  apply BitVec.eq_of_toNat_eq; rw [xField_toNat, encodeXyn_toNat]
  have := x.isLt; have := y.isLt; have := n.isLt; omega

@[simp] theorem yField_encodeXyn : yField (encodeXyn op x y n) = y := by
  apply BitVec.eq_of_toNat_eq; rw [yField_toNat, encodeXyn_toNat]
  have := x.isLt; have := y.isLt; have := n.isLt; omega

@[simp] theorem nField_encodeXyn : nField (encodeXyn op x y n) = n := by
  apply BitVec.eq_of_toNat_eq; rw [nField_toNat, encodeXyn_toNat]
  have := x.isLt; have := y.isLt; have := n.isLt; omega

end

end Sys2Proof
end

