-- ==== Sys2Proof/Laws/Memory.lean ====
section
/-!
SUPPORT. What the memory operations do: what each address reads as after a write, and that the canonical form is kept.
-/
namespace Sys2Proof.Machine

@[simp] theorem memSize_eq : memSize = 4096 := rfl
@[simp] theorem fontBase_eq : fontBase = 0x050 := rfl
@[simp] theorem glyphBytes_eq : glyphBytes = 5 := rfl
@[simp] theorem progBase_eq : progBase = 0x200 := rfl

@[simp] theorem Memory.read_nil (a : Nat) : Memory.read [] a = Memory.blank a := rfl

theorem Memory.read_cons (c : Host.Cell) (m : Memory) (a : Nat) :
    Memory.read (c :: m) a = if c.1 = a then c.2 else Memory.read m a := rfl

theorem Memory.read_insert (m : Memory) (a b : Nat) (v : Byte) :
    Memory.read (Memory.insert m a v) b = if b = a then v else Memory.read m b := by
  induction m with
  | nil => simp [Memory.insert, Memory.read_cons, eq_comm]
  | cons c rest ih =>
    unfold Memory.insert
    split
    · simp [Memory.read_cons, eq_comm]
    · split
      · rename_i h
        by_cases hb : b = a
        · simp [Memory.read_cons, hb]
        · have : ¬ c.1 = b := by omega
          have : ¬ a = b := by omega
          have : ¬ b = c.1 := by omega
          simp [Memory.read_cons, *]
      · rename_i h1 h2
        rw [Memory.read_cons, ih, Memory.read_cons]
        by_cases hb : b = a
        · have : ¬ c.1 = b := by omega
          simp [*]
          intro h; omega
        · simp [hb]

theorem Memory.read_erase (m : Memory) (a b : Nat) :
    Memory.read (Memory.erase m a) b = if b = a then Memory.blank a else Memory.read m b := by
  induction m with
  | nil => simp +contextual [Memory.erase]
  | cons c rest ih =>
    simp only [Memory.erase, List.filter_cons] at ih ⊢
    by_cases hc : c.1 = a
    · simp only [hc, bne_self_eq_false, Bool.false_eq_true, if_false, ih, Memory.read_cons]
      by_cases hb : b = a
      · simp [hb]
      · have : ¬ a = b := by omega
        simp [*]
    · have : (c.1 != a) = true := by simpa using hc
      simp only [this, if_true, Memory.read_cons, ih]
      by_cases hb : b = a
      · simp [hb, hc]
      · simp [hb]

/-- A read after a write. -/
theorem Memory.read_write (m : Memory) (a b : Nat) (v : Byte) :
    Memory.read (Memory.write m a v) b = if b = a then v else Memory.read m b := by
  unfold Memory.write
  split
  · rename_i h; rw [Memory.read_erase, h]
  · rw [Memory.read_insert]

/-- A read after the write of a run of bytes: the byte written there, or what was there. -/
theorem Memory.read_writeBytes (bs : List Byte) (m : Memory) (a b : Nat) :
    Memory.read (Memory.writeBytes m a bs) b =
      if a ≤ b ∧ b < a + bs.length then bs.getD (b - a) 0#8 else Memory.read m b := by
  induction bs generalizing m a with
  | nil =>
    have : ¬ (a ≤ b ∧ b < a + ([] : List Byte).length) := by rw [List.length_nil]; omega
    rw [if_neg this, Memory.writeBytes]
  | cons c rest ih =>
    rw [Memory.writeBytes, ih, Memory.read_write]
    by_cases h : a + 1 ≤ b ∧ b < a + 1 + rest.length
    · have e : b - a = (b - (a + 1)) + 1 := by omega
      have : a ≤ b ∧ b < a + (c :: rest).length := by simp; omega
      simp only [h, this, and_self, if_true, e, List.getD_cons_succ]
    · by_cases hb : b = a
      · subst hb; simp only [h, if_false, if_true]; simp
      · have : ¬ (a ≤ b ∧ b < a + (c :: rest).length) := by simp; omega
        simp only [h, this, hb, if_false]

theorem Memory.length_readBytes (m : Memory) (a n : Nat) : (Memory.readBytes m a n).length = n := by
  induction n generalizing a with
  | zero => rfl
  | succ n ih => simp [Memory.readBytes, ih]

theorem Memory.getElem?_readBytes (m : Memory) (a n k : Nat) :
    (Memory.readBytes m a n)[k]? = if k < n then some (Memory.read m (a + k)) else none := by
  induction n generalizing a k with
  | zero => simp [Memory.readBytes]
  | succ n ih =>
    cases k with
    | zero => simp [Memory.readBytes]
    | succ k => simp only [Memory.readBytes, List.getElem?_cons_succ, ih]; simp only [Nat.add_lt_add_iff_right]; congr 3; omega

/-! ## The canonical form -/

theorem Memory.mem_insert {m : Memory} {a : Nat} {v : Byte} {c : Host.Cell} (h : c ∈ Memory.insert m a v) :
    c = (a, v) ∨ c ∈ m := by
  induction m with
  | nil => simpa [Memory.insert] using h
  | cons d rest ih =>
    unfold Memory.insert at h
    split at h
    · simpa using h
    · split at h
      · rcases List.mem_cons.1 h with h | h
        · exact .inl h
        · exact .inr (List.mem_cons_of_mem _ h)
      · rcases List.mem_cons.1 h with h | h
        · exact .inr (by simp [h])
        · rcases ih h with h | h
          · exact .inl h
          · exact .inr (List.mem_cons_of_mem _ h)

theorem Memory.pairwise_insert {m : Memory} (a : Nat) (v : Byte) (h : m.Pairwise (fun c d => c.1 < d.1)) :
    (Memory.insert m a v).Pairwise (fun c d => c.1 < d.1) := by
  induction m with
  | nil => simp [Memory.insert]
  | cons d rest ih =>
    rw [List.pairwise_cons] at h
    unfold Memory.insert
    split
    · rename_i ha
      refine List.pairwise_cons.2 ⟨?_, List.pairwise_cons.2 h⟩
      intro c hc
      rcases List.mem_cons.1 hc with rfl | hc
      · exact ha
      · exact Nat.lt_trans ha (h.1 c hc)
    · split
      · rename_i ha
        exact List.pairwise_cons.2 ⟨fun c hc => ha ▸ h.1 c hc, h.2⟩
      · refine List.pairwise_cons.2 ⟨?_, ih h.2⟩
        intro c hc
        rcases Memory.mem_insert hc with rfl | hc
        · show d.1 < a; omega
        · exact h.1 c hc

/-- Every write below 4096 keeps the canonical form. -/
theorem Memory.wf_write {m : Memory} (h : Memory.wf m) (a : Nat) (v : Byte) (ha : a < memSize) :
    Memory.wf (Memory.write m a v) := by
  unfold Memory.write
  split
  · exact ⟨h.1.filter _, fun c hc => h.2 c (List.mem_filter.1 hc).1⟩
  · rename_i hv
    refine ⟨Memory.pairwise_insert a v h.1, fun c hc => ?_⟩
    rcases Memory.mem_insert hc with rfl | hc
    · exact ⟨ha, hv⟩
    · exact h.2 c hc

/-- Every write of a run of bytes below 4096 keeps the canonical form. -/
theorem Memory.wf_writeBytes {m : Memory} (h : Memory.wf m) (a : Nat) (bs : List Byte) (ha : a + bs.length ≤ memSize) :
    Memory.wf (Memory.writeBytes m a bs) := by
  induction bs generalizing m a with
  | nil => exact h
  | cons b rest ih =>
    simp only [List.length_cons] at ha
    exact ih (Memory.wf_write h a b (by omega)) (a + 1) (by omega)

end Sys2Proof.Machine
end

