-- ==== Sys2Proof/Laws/State.lean ====
section
/-!
SUPPORT. One lemma per field and accessor per state update, each true by unfolding the update once, so that no later proof unfolds a
record update.
-/
namespace Sys2Proof.Machine

/-! ## setReg -/

@[simp] theorem State.setReg_V (s : State) (r : Reg) (v : Byte) : (s.setReg r v).V = s.V.set r.toNat v r.isLt := rfl
@[simp] theorem State.setReg_I (s : State) (r : Reg) (v : Byte) : (s.setReg r v).I = s.I := rfl
@[simp] theorem State.setReg_pc (s : State) (r : Reg) (v : Byte) : (s.setReg r v).pc = s.pc := rfl
@[simp] theorem State.setReg_sp (s : State) (r : Reg) (v : Byte) : (s.setReg r v).sp = s.sp := rfl
@[simp] theorem State.setReg_stack (s : State) (r : Reg) (v : Byte) : (s.setReg r v).stack = s.stack := rfl
@[simp] theorem State.setReg_DT (s : State) (r : Reg) (v : Byte) : (s.setReg r v).DT = s.DT := rfl
@[simp] theorem State.setReg_ST (s : State) (r : Reg) (v : Byte) : (s.setReg r v).ST = s.ST := rfl
@[simp] theorem State.setReg_keypad (s : State) (r : Reg) (v : Byte) : (s.setReg r v).keypad = s.keypad := rfl
@[simp] theorem State.setReg_video (s : State) (r : Reg) (v : Byte) : (s.setReg r v).video = s.video := rfl
@[simp] theorem State.setReg_opcode (s : State) (r : Reg) (v : Byte) : (s.setReg r v).opcode = s.opcode := rfl
@[simp] theorem State.setReg_mem (s : State) (r : Reg) (v : Byte) : (s.setReg r v).mem = s.mem := rfl
@[simp] theorem State.setReg_run (s : State) (r : Reg) (v : Byte) : (s.setReg r v).run = s.run := rfl
@[simp] theorem State.setReg_fault (s : State) (r : Reg) (v : Byte) : (s.setReg r v).fault = s.fault := rfl
@[simp] theorem State.setReg_draws (s : State) (r : Reg) (v : Byte) : (s.setReg r v).draws = s.draws := rfl
@[simp] theorem State.setReg_cell (s : State) (r : Reg) (v : Byte) (x : Fin 64) (y : Fin 32) : (s.setReg r v).cell x y = s.cell x y := rfl
@[simp] theorem State.setReg_readByte (s : State) (r : Reg) (v : Byte) (b : Nat) : (s.setReg r v).readByte b = s.readByte b := rfl
@[simp] theorem State.setReg_key (s : State) (r : Reg) (v : Byte) (k : Nat) : (s.setReg r v).key k = s.key k := rfl

/-! ## setPc -/

@[simp] theorem State.setPc_V (s : State) (a : Word) : (s.setPc a).V = s.V := rfl
@[simp] theorem State.setPc_I (s : State) (a : Word) : (s.setPc a).I = s.I := rfl
@[simp] theorem State.setPc_pc (s : State) (a : Word) : (s.setPc a).pc = a := rfl
@[simp] theorem State.setPc_sp (s : State) (a : Word) : (s.setPc a).sp = s.sp := rfl
@[simp] theorem State.setPc_stack (s : State) (a : Word) : (s.setPc a).stack = s.stack := rfl
@[simp] theorem State.setPc_DT (s : State) (a : Word) : (s.setPc a).DT = s.DT := rfl
@[simp] theorem State.setPc_ST (s : State) (a : Word) : (s.setPc a).ST = s.ST := rfl
@[simp] theorem State.setPc_keypad (s : State) (a : Word) : (s.setPc a).keypad = s.keypad := rfl
@[simp] theorem State.setPc_video (s : State) (a : Word) : (s.setPc a).video = s.video := rfl
@[simp] theorem State.setPc_opcode (s : State) (a : Word) : (s.setPc a).opcode = s.opcode := rfl
@[simp] theorem State.setPc_mem (s : State) (a : Word) : (s.setPc a).mem = s.mem := rfl
@[simp] theorem State.setPc_run (s : State) (a : Word) : (s.setPc a).run = s.run := rfl
@[simp] theorem State.setPc_fault (s : State) (a : Word) : (s.setPc a).fault = s.fault := rfl
@[simp] theorem State.setPc_draws (s : State) (a : Word) : (s.setPc a).draws = s.draws := rfl
@[simp] theorem State.setPc_reg (s : State) (a : Word) (q : Reg) : (s.setPc a).reg q = s.reg q := rfl
@[simp] theorem State.setPc_cell (s : State) (a : Word) (x : Fin 64) (y : Fin 32) : (s.setPc a).cell x y = s.cell x y := rfl
@[simp] theorem State.setPc_readByte (s : State) (a : Word) (b : Nat) : (s.setPc a).readByte b = s.readByte b := rfl
@[simp] theorem State.setPc_key (s : State) (a : Word) (k : Nat) : (s.setPc a).key k = s.key k := rfl

/-! ## advance -/

@[simp] theorem State.advance_V (s : State) : (s.advance).V = s.V := rfl
@[simp] theorem State.advance_I (s : State) : (s.advance).I = s.I := rfl
@[simp] theorem State.advance_pc (s : State) : (s.advance).pc = s.pc + 2#16 := rfl
@[simp] theorem State.advance_sp (s : State) : (s.advance).sp = s.sp := rfl
@[simp] theorem State.advance_stack (s : State) : (s.advance).stack = s.stack := rfl
@[simp] theorem State.advance_DT (s : State) : (s.advance).DT = s.DT := rfl
@[simp] theorem State.advance_ST (s : State) : (s.advance).ST = s.ST := rfl
@[simp] theorem State.advance_keypad (s : State) : (s.advance).keypad = s.keypad := rfl
@[simp] theorem State.advance_video (s : State) : (s.advance).video = s.video := rfl
@[simp] theorem State.advance_opcode (s : State) : (s.advance).opcode = s.opcode := rfl
@[simp] theorem State.advance_mem (s : State) : (s.advance).mem = s.mem := rfl
@[simp] theorem State.advance_run (s : State) : (s.advance).run = s.run := rfl
@[simp] theorem State.advance_fault (s : State) : (s.advance).fault = s.fault := rfl
@[simp] theorem State.advance_draws (s : State) : (s.advance).draws = s.draws := rfl
@[simp] theorem State.advance_reg (s : State) (q : Reg) : (s.advance).reg q = s.reg q := rfl
@[simp] theorem State.advance_cell (s : State) (x : Fin 64) (y : Fin 32) : (s.advance).cell x y = s.cell x y := rfl
@[simp] theorem State.advance_readByte (s : State) (b : Nat) : (s.advance).readByte b = s.readByte b := rfl
@[simp] theorem State.advance_key (s : State) (k : Nat) : (s.advance).key k = s.key k := rfl

/-! ## skipIf -/

@[simp] theorem State.skipIf_V (s : State) (c : Bool) : (s.skipIf c).V = s.V := rfl
@[simp] theorem State.skipIf_I (s : State) (c : Bool) : (s.skipIf c).I = s.I := rfl
@[simp] theorem State.skipIf_pc (s : State) (c : Bool) : (s.skipIf c).pc = if c then s.pc + 4#16 else s.pc + 2#16 := rfl
@[simp] theorem State.skipIf_sp (s : State) (c : Bool) : (s.skipIf c).sp = s.sp := rfl
@[simp] theorem State.skipIf_stack (s : State) (c : Bool) : (s.skipIf c).stack = s.stack := rfl
@[simp] theorem State.skipIf_DT (s : State) (c : Bool) : (s.skipIf c).DT = s.DT := rfl
@[simp] theorem State.skipIf_ST (s : State) (c : Bool) : (s.skipIf c).ST = s.ST := rfl
@[simp] theorem State.skipIf_keypad (s : State) (c : Bool) : (s.skipIf c).keypad = s.keypad := rfl
@[simp] theorem State.skipIf_video (s : State) (c : Bool) : (s.skipIf c).video = s.video := rfl
@[simp] theorem State.skipIf_opcode (s : State) (c : Bool) : (s.skipIf c).opcode = s.opcode := rfl
@[simp] theorem State.skipIf_mem (s : State) (c : Bool) : (s.skipIf c).mem = s.mem := rfl
@[simp] theorem State.skipIf_run (s : State) (c : Bool) : (s.skipIf c).run = s.run := rfl
@[simp] theorem State.skipIf_fault (s : State) (c : Bool) : (s.skipIf c).fault = s.fault := rfl
@[simp] theorem State.skipIf_draws (s : State) (c : Bool) : (s.skipIf c).draws = s.draws := rfl
@[simp] theorem State.skipIf_reg (s : State) (c : Bool) (q : Reg) : (s.skipIf c).reg q = s.reg q := rfl
@[simp] theorem State.skipIf_cell (s : State) (c : Bool) (x : Fin 64) (y : Fin 32) : (s.skipIf c).cell x y = s.cell x y := rfl
@[simp] theorem State.skipIf_readByte (s : State) (c : Bool) (b : Nat) : (s.skipIf c).readByte b = s.readByte b := rfl
@[simp] theorem State.skipIf_key (s : State) (c : Bool) (k : Nat) : (s.skipIf c).key k = s.key k := rfl

/-! ## setI -/

@[simp] theorem State.setI_V (s : State) (v : Word) : (s.setI v).V = s.V := rfl
@[simp] theorem State.setI_I (s : State) (v : Word) : (s.setI v).I = v := rfl
@[simp] theorem State.setI_pc (s : State) (v : Word) : (s.setI v).pc = s.pc := rfl
@[simp] theorem State.setI_sp (s : State) (v : Word) : (s.setI v).sp = s.sp := rfl
@[simp] theorem State.setI_stack (s : State) (v : Word) : (s.setI v).stack = s.stack := rfl
@[simp] theorem State.setI_DT (s : State) (v : Word) : (s.setI v).DT = s.DT := rfl
@[simp] theorem State.setI_ST (s : State) (v : Word) : (s.setI v).ST = s.ST := rfl
@[simp] theorem State.setI_keypad (s : State) (v : Word) : (s.setI v).keypad = s.keypad := rfl
@[simp] theorem State.setI_video (s : State) (v : Word) : (s.setI v).video = s.video := rfl
@[simp] theorem State.setI_opcode (s : State) (v : Word) : (s.setI v).opcode = s.opcode := rfl
@[simp] theorem State.setI_mem (s : State) (v : Word) : (s.setI v).mem = s.mem := rfl
@[simp] theorem State.setI_run (s : State) (v : Word) : (s.setI v).run = s.run := rfl
@[simp] theorem State.setI_fault (s : State) (v : Word) : (s.setI v).fault = s.fault := rfl
@[simp] theorem State.setI_draws (s : State) (v : Word) : (s.setI v).draws = s.draws := rfl
@[simp] theorem State.setI_reg (s : State) (v : Word) (q : Reg) : (s.setI v).reg q = s.reg q := rfl
@[simp] theorem State.setI_cell (s : State) (v : Word) (x : Fin 64) (y : Fin 32) : (s.setI v).cell x y = s.cell x y := rfl
@[simp] theorem State.setI_readByte (s : State) (v : Word) (b : Nat) : (s.setI v).readByte b = s.readByte b := rfl
@[simp] theorem State.setI_key (s : State) (v : Word) (k : Nat) : (s.setI v).key k = s.key k := rfl

/-! ## setDT -/

@[simp] theorem State.setDT_V (s : State) (v : Byte) : (s.setDT v).V = s.V := rfl
@[simp] theorem State.setDT_I (s : State) (v : Byte) : (s.setDT v).I = s.I := rfl
@[simp] theorem State.setDT_pc (s : State) (v : Byte) : (s.setDT v).pc = s.pc := rfl
@[simp] theorem State.setDT_sp (s : State) (v : Byte) : (s.setDT v).sp = s.sp := rfl
@[simp] theorem State.setDT_stack (s : State) (v : Byte) : (s.setDT v).stack = s.stack := rfl
@[simp] theorem State.setDT_DT (s : State) (v : Byte) : (s.setDT v).DT = v := rfl
@[simp] theorem State.setDT_ST (s : State) (v : Byte) : (s.setDT v).ST = s.ST := rfl
@[simp] theorem State.setDT_keypad (s : State) (v : Byte) : (s.setDT v).keypad = s.keypad := rfl
@[simp] theorem State.setDT_video (s : State) (v : Byte) : (s.setDT v).video = s.video := rfl
@[simp] theorem State.setDT_opcode (s : State) (v : Byte) : (s.setDT v).opcode = s.opcode := rfl
@[simp] theorem State.setDT_mem (s : State) (v : Byte) : (s.setDT v).mem = s.mem := rfl
@[simp] theorem State.setDT_run (s : State) (v : Byte) : (s.setDT v).run = s.run := rfl
@[simp] theorem State.setDT_fault (s : State) (v : Byte) : (s.setDT v).fault = s.fault := rfl
@[simp] theorem State.setDT_draws (s : State) (v : Byte) : (s.setDT v).draws = s.draws := rfl
@[simp] theorem State.setDT_reg (s : State) (v : Byte) (q : Reg) : (s.setDT v).reg q = s.reg q := rfl
@[simp] theorem State.setDT_cell (s : State) (v : Byte) (x : Fin 64) (y : Fin 32) : (s.setDT v).cell x y = s.cell x y := rfl
@[simp] theorem State.setDT_readByte (s : State) (v : Byte) (b : Nat) : (s.setDT v).readByte b = s.readByte b := rfl
@[simp] theorem State.setDT_key (s : State) (v : Byte) (k : Nat) : (s.setDT v).key k = s.key k := rfl

/-! ## setST -/

@[simp] theorem State.setST_V (s : State) (v : Byte) : (s.setST v).V = s.V := rfl
@[simp] theorem State.setST_I (s : State) (v : Byte) : (s.setST v).I = s.I := rfl
@[simp] theorem State.setST_pc (s : State) (v : Byte) : (s.setST v).pc = s.pc := rfl
@[simp] theorem State.setST_sp (s : State) (v : Byte) : (s.setST v).sp = s.sp := rfl
@[simp] theorem State.setST_stack (s : State) (v : Byte) : (s.setST v).stack = s.stack := rfl
@[simp] theorem State.setST_DT (s : State) (v : Byte) : (s.setST v).DT = s.DT := rfl
@[simp] theorem State.setST_ST (s : State) (v : Byte) : (s.setST v).ST = v := rfl
@[simp] theorem State.setST_keypad (s : State) (v : Byte) : (s.setST v).keypad = s.keypad := rfl
@[simp] theorem State.setST_video (s : State) (v : Byte) : (s.setST v).video = s.video := rfl
@[simp] theorem State.setST_opcode (s : State) (v : Byte) : (s.setST v).opcode = s.opcode := rfl
@[simp] theorem State.setST_mem (s : State) (v : Byte) : (s.setST v).mem = s.mem := rfl
@[simp] theorem State.setST_run (s : State) (v : Byte) : (s.setST v).run = s.run := rfl
@[simp] theorem State.setST_fault (s : State) (v : Byte) : (s.setST v).fault = s.fault := rfl
@[simp] theorem State.setST_draws (s : State) (v : Byte) : (s.setST v).draws = s.draws := rfl
@[simp] theorem State.setST_reg (s : State) (v : Byte) (q : Reg) : (s.setST v).reg q = s.reg q := rfl
@[simp] theorem State.setST_cell (s : State) (v : Byte) (x : Fin 64) (y : Fin 32) : (s.setST v).cell x y = s.cell x y := rfl
@[simp] theorem State.setST_readByte (s : State) (v : Byte) (b : Nat) : (s.setST v).readByte b = s.readByte b := rfl
@[simp] theorem State.setST_key (s : State) (v : Byte) (k : Nat) : (s.setST v).key k = s.key k := rfl

/-! ## push -/

@[simp] theorem State.push_V (s : State) (v : Word) : (s.push v).V = s.V := rfl
@[simp] theorem State.push_I (s : State) (v : Word) : (s.push v).I = s.I := rfl
@[simp] theorem State.push_pc (s : State) (v : Word) : (s.push v).pc = s.pc := rfl
@[simp] theorem State.push_sp (s : State) (v : Word) : (s.push v).sp = s.sp + 1#8 := rfl
@[simp] theorem State.push_stack (s : State) (v : Word) : (s.push v).stack = s.stack.setIfInBounds s.sp.toNat v := rfl
@[simp] theorem State.push_DT (s : State) (v : Word) : (s.push v).DT = s.DT := rfl
@[simp] theorem State.push_ST (s : State) (v : Word) : (s.push v).ST = s.ST := rfl
@[simp] theorem State.push_keypad (s : State) (v : Word) : (s.push v).keypad = s.keypad := rfl
@[simp] theorem State.push_video (s : State) (v : Word) : (s.push v).video = s.video := rfl
@[simp] theorem State.push_opcode (s : State) (v : Word) : (s.push v).opcode = s.opcode := rfl
@[simp] theorem State.push_mem (s : State) (v : Word) : (s.push v).mem = s.mem := rfl
@[simp] theorem State.push_run (s : State) (v : Word) : (s.push v).run = s.run := rfl
@[simp] theorem State.push_fault (s : State) (v : Word) : (s.push v).fault = s.fault := rfl
@[simp] theorem State.push_draws (s : State) (v : Word) : (s.push v).draws = s.draws := rfl
@[simp] theorem State.push_reg (s : State) (v : Word) (q : Reg) : (s.push v).reg q = s.reg q := rfl
@[simp] theorem State.push_cell (s : State) (v : Word) (x : Fin 64) (y : Fin 32) : (s.push v).cell x y = s.cell x y := rfl
@[simp] theorem State.push_readByte (s : State) (v : Word) (b : Nat) : (s.push v).readByte b = s.readByte b := rfl
@[simp] theorem State.push_key (s : State) (v : Word) (k : Nat) : (s.push v).key k = s.key k := rfl

/-! ## drop -/

@[simp] theorem State.drop_V (s : State) : (s.drop).V = s.V := rfl
@[simp] theorem State.drop_I (s : State) : (s.drop).I = s.I := rfl
@[simp] theorem State.drop_pc (s : State) : (s.drop).pc = s.pc := rfl
@[simp] theorem State.drop_sp (s : State) : (s.drop).sp = s.sp - 1#8 := rfl
@[simp] theorem State.drop_stack (s : State) : (s.drop).stack = s.stack := rfl
@[simp] theorem State.drop_DT (s : State) : (s.drop).DT = s.DT := rfl
@[simp] theorem State.drop_ST (s : State) : (s.drop).ST = s.ST := rfl
@[simp] theorem State.drop_keypad (s : State) : (s.drop).keypad = s.keypad := rfl
@[simp] theorem State.drop_video (s : State) : (s.drop).video = s.video := rfl
@[simp] theorem State.drop_opcode (s : State) : (s.drop).opcode = s.opcode := rfl
@[simp] theorem State.drop_mem (s : State) : (s.drop).mem = s.mem := rfl
@[simp] theorem State.drop_run (s : State) : (s.drop).run = s.run := rfl
@[simp] theorem State.drop_fault (s : State) : (s.drop).fault = s.fault := rfl
@[simp] theorem State.drop_draws (s : State) : (s.drop).draws = s.draws := rfl
@[simp] theorem State.drop_reg (s : State) (q : Reg) : (s.drop).reg q = s.reg q := rfl
@[simp] theorem State.drop_cell (s : State) (x : Fin 64) (y : Fin 32) : (s.drop).cell x y = s.cell x y := rfl
@[simp] theorem State.drop_readByte (s : State) (b : Nat) : (s.drop).readByte b = s.readByte b := rfl
@[simp] theorem State.drop_key (s : State) (k : Nat) : (s.drop).key k = s.key k := rfl

/-! ## setVideo -/

@[simp] theorem State.setVideo_V (s : State) (v : Video) : (s.setVideo v).V = s.V := rfl
@[simp] theorem State.setVideo_I (s : State) (v : Video) : (s.setVideo v).I = s.I := rfl
@[simp] theorem State.setVideo_pc (s : State) (v : Video) : (s.setVideo v).pc = s.pc := rfl
@[simp] theorem State.setVideo_sp (s : State) (v : Video) : (s.setVideo v).sp = s.sp := rfl
@[simp] theorem State.setVideo_stack (s : State) (v : Video) : (s.setVideo v).stack = s.stack := rfl
@[simp] theorem State.setVideo_DT (s : State) (v : Video) : (s.setVideo v).DT = s.DT := rfl
@[simp] theorem State.setVideo_ST (s : State) (v : Video) : (s.setVideo v).ST = s.ST := rfl
@[simp] theorem State.setVideo_keypad (s : State) (v : Video) : (s.setVideo v).keypad = s.keypad := rfl
@[simp] theorem State.setVideo_video (s : State) (v : Video) : (s.setVideo v).video = v := rfl
@[simp] theorem State.setVideo_opcode (s : State) (v : Video) : (s.setVideo v).opcode = s.opcode := rfl
@[simp] theorem State.setVideo_mem (s : State) (v : Video) : (s.setVideo v).mem = s.mem := rfl
@[simp] theorem State.setVideo_run (s : State) (v : Video) : (s.setVideo v).run = s.run := rfl
@[simp] theorem State.setVideo_fault (s : State) (v : Video) : (s.setVideo v).fault = s.fault := rfl
@[simp] theorem State.setVideo_draws (s : State) (v : Video) : (s.setVideo v).draws = s.draws := rfl
@[simp] theorem State.setVideo_reg (s : State) (v : Video) (q : Reg) : (s.setVideo v).reg q = s.reg q := rfl
@[simp] theorem State.setVideo_readByte (s : State) (v : Video) (b : Nat) : (s.setVideo v).readByte b = s.readByte b := rfl
@[simp] theorem State.setVideo_key (s : State) (v : Video) (k : Nat) : (s.setVideo v).key k = s.key k := rfl

/-! ## writeBytes -/

@[simp] theorem State.writeBytes_V (s : State) (a : Nat) (bs : List Byte) : (s.writeBytes a bs).V = s.V := rfl
@[simp] theorem State.writeBytes_I (s : State) (a : Nat) (bs : List Byte) : (s.writeBytes a bs).I = s.I := rfl
@[simp] theorem State.writeBytes_pc (s : State) (a : Nat) (bs : List Byte) : (s.writeBytes a bs).pc = s.pc := rfl
@[simp] theorem State.writeBytes_sp (s : State) (a : Nat) (bs : List Byte) : (s.writeBytes a bs).sp = s.sp := rfl
@[simp] theorem State.writeBytes_stack (s : State) (a : Nat) (bs : List Byte) : (s.writeBytes a bs).stack = s.stack := rfl
@[simp] theorem State.writeBytes_DT (s : State) (a : Nat) (bs : List Byte) : (s.writeBytes a bs).DT = s.DT := rfl
@[simp] theorem State.writeBytes_ST (s : State) (a : Nat) (bs : List Byte) : (s.writeBytes a bs).ST = s.ST := rfl
@[simp] theorem State.writeBytes_keypad (s : State) (a : Nat) (bs : List Byte) : (s.writeBytes a bs).keypad = s.keypad := rfl
@[simp] theorem State.writeBytes_video (s : State) (a : Nat) (bs : List Byte) : (s.writeBytes a bs).video = s.video := rfl
@[simp] theorem State.writeBytes_opcode (s : State) (a : Nat) (bs : List Byte) : (s.writeBytes a bs).opcode = s.opcode := rfl
@[simp] theorem State.writeBytes_mem (s : State) (a : Nat) (bs : List Byte) : (s.writeBytes a bs).mem = Memory.writeBytes s.mem a bs := rfl
@[simp] theorem State.writeBytes_run (s : State) (a : Nat) (bs : List Byte) : (s.writeBytes a bs).run = s.run := rfl
@[simp] theorem State.writeBytes_fault (s : State) (a : Nat) (bs : List Byte) : (s.writeBytes a bs).fault = s.fault := rfl
@[simp] theorem State.writeBytes_draws (s : State) (a : Nat) (bs : List Byte) : (s.writeBytes a bs).draws = s.draws := rfl
@[simp] theorem State.writeBytes_reg (s : State) (a : Nat) (bs : List Byte) (q : Reg) : (s.writeBytes a bs).reg q = s.reg q := rfl
@[simp] theorem State.writeBytes_cell (s : State) (a : Nat) (bs : List Byte) (x : Fin 64) (y : Fin 32) : (s.writeBytes a bs).cell x y = s.cell x y := rfl
@[simp] theorem State.writeBytes_key (s : State) (a : Nat) (bs : List Byte) (k : Nat) : (s.writeBytes a bs).key k = s.key k := rfl

/-! ## setOpcode -/

@[simp] theorem State.setOpcode_V (s : State) (w : Word) : (s.setOpcode w).V = s.V := rfl
@[simp] theorem State.setOpcode_I (s : State) (w : Word) : (s.setOpcode w).I = s.I := rfl
@[simp] theorem State.setOpcode_pc (s : State) (w : Word) : (s.setOpcode w).pc = s.pc := rfl
@[simp] theorem State.setOpcode_sp (s : State) (w : Word) : (s.setOpcode w).sp = s.sp := rfl
@[simp] theorem State.setOpcode_stack (s : State) (w : Word) : (s.setOpcode w).stack = s.stack := rfl
@[simp] theorem State.setOpcode_DT (s : State) (w : Word) : (s.setOpcode w).DT = s.DT := rfl
@[simp] theorem State.setOpcode_ST (s : State) (w : Word) : (s.setOpcode w).ST = s.ST := rfl
@[simp] theorem State.setOpcode_keypad (s : State) (w : Word) : (s.setOpcode w).keypad = s.keypad := rfl
@[simp] theorem State.setOpcode_video (s : State) (w : Word) : (s.setOpcode w).video = s.video := rfl
@[simp] theorem State.setOpcode_opcode (s : State) (w : Word) : (s.setOpcode w).opcode = w := rfl
@[simp] theorem State.setOpcode_mem (s : State) (w : Word) : (s.setOpcode w).mem = s.mem := rfl
@[simp] theorem State.setOpcode_run (s : State) (w : Word) : (s.setOpcode w).run = s.run := rfl
@[simp] theorem State.setOpcode_fault (s : State) (w : Word) : (s.setOpcode w).fault = s.fault := rfl
@[simp] theorem State.setOpcode_draws (s : State) (w : Word) : (s.setOpcode w).draws = s.draws := rfl
@[simp] theorem State.setOpcode_reg (s : State) (w : Word) (q : Reg) : (s.setOpcode w).reg q = s.reg q := rfl
@[simp] theorem State.setOpcode_cell (s : State) (w : Word) (x : Fin 64) (y : Fin 32) : (s.setOpcode w).cell x y = s.cell x y := rfl
@[simp] theorem State.setOpcode_readByte (s : State) (w : Word) (b : Nat) : (s.setOpcode w).readByte b = s.readByte b := rfl
@[simp] theorem State.setOpcode_key (s : State) (w : Word) (k : Nat) : (s.setOpcode w).key k = s.key k := rfl

/-! ## fatal -/

@[simp] theorem State.fatal_V (s : State) (k : FaultKind) (w : Option Word) (i : FaultInfo) : (s.fatal k w i).V = s.V := rfl
@[simp] theorem State.fatal_I (s : State) (k : FaultKind) (w : Option Word) (i : FaultInfo) : (s.fatal k w i).I = s.I := rfl
@[simp] theorem State.fatal_pc (s : State) (k : FaultKind) (w : Option Word) (i : FaultInfo) : (s.fatal k w i).pc = s.pc := rfl
@[simp] theorem State.fatal_sp (s : State) (k : FaultKind) (w : Option Word) (i : FaultInfo) : (s.fatal k w i).sp = s.sp := rfl
@[simp] theorem State.fatal_stack (s : State) (k : FaultKind) (w : Option Word) (i : FaultInfo) : (s.fatal k w i).stack = s.stack := rfl
@[simp] theorem State.fatal_DT (s : State) (k : FaultKind) (w : Option Word) (i : FaultInfo) : (s.fatal k w i).DT = s.DT := rfl
@[simp] theorem State.fatal_ST (s : State) (k : FaultKind) (w : Option Word) (i : FaultInfo) : (s.fatal k w i).ST = s.ST := rfl
@[simp] theorem State.fatal_keypad (s : State) (k : FaultKind) (w : Option Word) (i : FaultInfo) : (s.fatal k w i).keypad = s.keypad := rfl
@[simp] theorem State.fatal_video (s : State) (k : FaultKind) (w : Option Word) (i : FaultInfo) : (s.fatal k w i).video = s.video := rfl
@[simp] theorem State.fatal_opcode (s : State) (k : FaultKind) (w : Option Word) (i : FaultInfo) : (s.fatal k w i).opcode = s.opcode := rfl
@[simp] theorem State.fatal_mem (s : State) (k : FaultKind) (w : Option Word) (i : FaultInfo) : (s.fatal k w i).mem = s.mem := rfl
@[simp] theorem State.fatal_run (s : State) (k : FaultKind) (w : Option Word) (i : FaultInfo) : (s.fatal k w i).run = .haltedError := rfl
@[simp] theorem State.fatal_fault (s : State) (k : FaultKind) (w : Option Word) (i : FaultInfo) : (s.fatal k w i).fault = some { kind := k, pc := s.pc, word := w, info := i } := rfl
@[simp] theorem State.fatal_draws (s : State) (k : FaultKind) (w : Option Word) (i : FaultInfo) : (s.fatal k w i).draws = s.draws := rfl
@[simp] theorem State.fatal_reg (s : State) (k : FaultKind) (w : Option Word) (i : FaultInfo) (q : Reg) : (s.fatal k w i).reg q = s.reg q := rfl
@[simp] theorem State.fatal_cell (s : State) (k : FaultKind) (w : Option Word) (i : FaultInfo) (x : Fin 64) (y : Fin 32) : (s.fatal k w i).cell x y = s.cell x y := rfl
@[simp] theorem State.fatal_readByte (s : State) (k : FaultKind) (w : Option Word) (i : FaultInfo) (b : Nat) : (s.fatal k w i).readByte b = s.readByte b := rfl
@[simp] theorem State.fatal_key (s : State) (k : FaultKind) (w : Option Word) (i : FaultInfo) (j : Nat) : (s.fatal k w i).key j = s.key j := rfl

/-! ## raise -/

@[simp] theorem State.raise_V (s : State) (k : FaultKind) (i : FaultInfo) : (s.raise k i).V = s.V := rfl
@[simp] theorem State.raise_I (s : State) (k : FaultKind) (i : FaultInfo) : (s.raise k i).I = s.I := rfl
@[simp] theorem State.raise_pc (s : State) (k : FaultKind) (i : FaultInfo) : (s.raise k i).pc = s.pc := rfl
@[simp] theorem State.raise_sp (s : State) (k : FaultKind) (i : FaultInfo) : (s.raise k i).sp = s.sp := rfl
@[simp] theorem State.raise_stack (s : State) (k : FaultKind) (i : FaultInfo) : (s.raise k i).stack = s.stack := rfl
@[simp] theorem State.raise_DT (s : State) (k : FaultKind) (i : FaultInfo) : (s.raise k i).DT = s.DT := rfl
@[simp] theorem State.raise_ST (s : State) (k : FaultKind) (i : FaultInfo) : (s.raise k i).ST = s.ST := rfl
@[simp] theorem State.raise_keypad (s : State) (k : FaultKind) (i : FaultInfo) : (s.raise k i).keypad = s.keypad := rfl
@[simp] theorem State.raise_video (s : State) (k : FaultKind) (i : FaultInfo) : (s.raise k i).video = s.video := rfl
@[simp] theorem State.raise_opcode (s : State) (k : FaultKind) (i : FaultInfo) : (s.raise k i).opcode = s.opcode := rfl
@[simp] theorem State.raise_mem (s : State) (k : FaultKind) (i : FaultInfo) : (s.raise k i).mem = s.mem := rfl
@[simp] theorem State.raise_run (s : State) (k : FaultKind) (i : FaultInfo) : (s.raise k i).run = .haltedError := rfl
@[simp] theorem State.raise_fault (s : State) (k : FaultKind) (i : FaultInfo) : (s.raise k i).fault = some { kind := k, pc := s.pc, word := some s.opcode, info := i } := rfl
@[simp] theorem State.raise_draws (s : State) (k : FaultKind) (i : FaultInfo) : (s.raise k i).draws = s.draws := rfl
@[simp] theorem State.raise_reg (s : State) (k : FaultKind) (i : FaultInfo) (q : Reg) : (s.raise k i).reg q = s.reg q := rfl
@[simp] theorem State.raise_cell (s : State) (k : FaultKind) (i : FaultInfo) (x : Fin 64) (y : Fin 32) : (s.raise k i).cell x y = s.cell x y := rfl
@[simp] theorem State.raise_readByte (s : State) (k : FaultKind) (i : FaultInfo) (b : Nat) : (s.raise k i).readByte b = s.readByte b := rfl
@[simp] theorem State.raise_key (s : State) (k : FaultKind) (i : FaultInfo) (j : Nat) : (s.raise k i).key j = s.key j := rfl

/-! ## loadRegs -/

@[simp] theorem State.loadRegs_I (s : State) (x : Reg) : (s.loadRegs x).I = s.I := by simp only [State.loadRegs]
@[simp] theorem State.loadRegs_pc (s : State) (x : Reg) : (s.loadRegs x).pc = s.pc := by simp only [State.loadRegs]
@[simp] theorem State.loadRegs_sp (s : State) (x : Reg) : (s.loadRegs x).sp = s.sp := by simp only [State.loadRegs]
@[simp] theorem State.loadRegs_stack (s : State) (x : Reg) : (s.loadRegs x).stack = s.stack := by simp only [State.loadRegs]
@[simp] theorem State.loadRegs_DT (s : State) (x : Reg) : (s.loadRegs x).DT = s.DT := by simp only [State.loadRegs]
@[simp] theorem State.loadRegs_ST (s : State) (x : Reg) : (s.loadRegs x).ST = s.ST := by simp only [State.loadRegs]
@[simp] theorem State.loadRegs_keypad (s : State) (x : Reg) : (s.loadRegs x).keypad = s.keypad := by simp only [State.loadRegs]
@[simp] theorem State.loadRegs_video (s : State) (x : Reg) : (s.loadRegs x).video = s.video := by simp only [State.loadRegs]
@[simp] theorem State.loadRegs_opcode (s : State) (x : Reg) : (s.loadRegs x).opcode = s.opcode := by simp only [State.loadRegs]
@[simp] theorem State.loadRegs_mem (s : State) (x : Reg) : (s.loadRegs x).mem = s.mem := by simp only [State.loadRegs]
@[simp] theorem State.loadRegs_run (s : State) (x : Reg) : (s.loadRegs x).run = s.run := by simp only [State.loadRegs]
@[simp] theorem State.loadRegs_fault (s : State) (x : Reg) : (s.loadRegs x).fault = s.fault := by simp only [State.loadRegs]
@[simp] theorem State.loadRegs_draws (s : State) (x : Reg) : (s.loadRegs x).draws = s.draws := by simp only [State.loadRegs]
@[simp] theorem State.loadRegs_cell (s : State) (x1 : Reg) (x : Fin 64) (y : Fin 32) : (s.loadRegs x1).cell x y = s.cell x y := by simp only [State.loadRegs, State.cell]
@[simp] theorem State.loadRegs_readByte (s : State) (x : Reg) (b : Nat) : (s.loadRegs x).readByte b = s.readByte b := by simp only [State.loadRegs, State.readByte]
@[simp] theorem State.loadRegs_key (s : State) (x : Reg) (k : Nat) : (s.loadRegs x).key k = s.key k := by simp only [State.loadRegs, State.key]

/-! ## drawSprite -/

@[simp] theorem State.drawSprite_V (s : State) (x0 y0 : Byte) (rows : List Byte) : (s.drawSprite x0 y0 rows).V = s.V.set VF.toNat (flag (Video.draw s.video false (spritePixels x0.toNat y0.toNat rows)).2) VF.isLt := by simp [State.drawSprite]
@[simp] theorem State.drawSprite_I (s : State) (x0 y0 : Byte) (rows : List Byte) : (s.drawSprite x0 y0 rows).I = s.I := by simp [State.drawSprite]
@[simp] theorem State.drawSprite_pc (s : State) (x0 y0 : Byte) (rows : List Byte) : (s.drawSprite x0 y0 rows).pc = s.pc := by simp [State.drawSprite]
@[simp] theorem State.drawSprite_sp (s : State) (x0 y0 : Byte) (rows : List Byte) : (s.drawSprite x0 y0 rows).sp = s.sp := by simp [State.drawSprite]
@[simp] theorem State.drawSprite_stack (s : State) (x0 y0 : Byte) (rows : List Byte) : (s.drawSprite x0 y0 rows).stack = s.stack := by simp [State.drawSprite]
@[simp] theorem State.drawSprite_DT (s : State) (x0 y0 : Byte) (rows : List Byte) : (s.drawSprite x0 y0 rows).DT = s.DT := by simp [State.drawSprite]
@[simp] theorem State.drawSprite_ST (s : State) (x0 y0 : Byte) (rows : List Byte) : (s.drawSprite x0 y0 rows).ST = s.ST := by simp [State.drawSprite]
@[simp] theorem State.drawSprite_keypad (s : State) (x0 y0 : Byte) (rows : List Byte) : (s.drawSprite x0 y0 rows).keypad = s.keypad := by simp [State.drawSprite]
@[simp] theorem State.drawSprite_video (s : State) (x0 y0 : Byte) (rows : List Byte) : (s.drawSprite x0 y0 rows).video = (Video.draw s.video false (spritePixels x0.toNat y0.toNat rows)).1 := by simp [State.drawSprite]
@[simp] theorem State.drawSprite_opcode (s : State) (x0 y0 : Byte) (rows : List Byte) : (s.drawSprite x0 y0 rows).opcode = s.opcode := by simp [State.drawSprite]
@[simp] theorem State.drawSprite_mem (s : State) (x0 y0 : Byte) (rows : List Byte) : (s.drawSprite x0 y0 rows).mem = s.mem := by simp [State.drawSprite]
@[simp] theorem State.drawSprite_run (s : State) (x0 y0 : Byte) (rows : List Byte) : (s.drawSprite x0 y0 rows).run = s.run := by simp [State.drawSprite]
@[simp] theorem State.drawSprite_fault (s : State) (x0 y0 : Byte) (rows : List Byte) : (s.drawSprite x0 y0 rows).fault = s.fault := by simp [State.drawSprite]
@[simp] theorem State.drawSprite_draws (s : State) (x0 y0 : Byte) (rows : List Byte) : (s.drawSprite x0 y0 rows).draws = s.draws := by simp [State.drawSprite]
@[simp] theorem State.drawSprite_readByte (s : State) (x0 y0 : Byte) (rows : List Byte) (b : Nat) : (s.drawSprite x0 y0 rows).readByte b = s.readByte b := by simp [State.drawSprite]
@[simp] theorem State.drawSprite_key (s : State) (x0 y0 : Byte) (rows : List Byte) (k : Nat) : (s.drawSprite x0 y0 rows).key k = s.key k := by simp [State.drawSprite]

/-! ## tickTimers -/

@[simp] theorem State.tickTimers_V (s : State) : (s.tickTimers).V = s.V := rfl
@[simp] theorem State.tickTimers_I (s : State) : (s.tickTimers).I = s.I := rfl
@[simp] theorem State.tickTimers_pc (s : State) : (s.tickTimers).pc = s.pc := rfl
@[simp] theorem State.tickTimers_sp (s : State) : (s.tickTimers).sp = s.sp := rfl
@[simp] theorem State.tickTimers_stack (s : State) : (s.tickTimers).stack = s.stack := rfl
@[simp] theorem State.tickTimers_DT (s : State) : (s.tickTimers).DT = countDown s.DT := rfl
@[simp] theorem State.tickTimers_ST (s : State) : (s.tickTimers).ST = countDown s.ST := rfl
@[simp] theorem State.tickTimers_keypad (s : State) : (s.tickTimers).keypad = s.keypad := rfl
@[simp] theorem State.tickTimers_video (s : State) : (s.tickTimers).video = s.video := rfl
@[simp] theorem State.tickTimers_opcode (s : State) : (s.tickTimers).opcode = s.opcode := rfl
@[simp] theorem State.tickTimers_mem (s : State) : (s.tickTimers).mem = s.mem := rfl
@[simp] theorem State.tickTimers_run (s : State) : (s.tickTimers).run = s.run := rfl
@[simp] theorem State.tickTimers_fault (s : State) : (s.tickTimers).fault = s.fault := rfl
@[simp] theorem State.tickTimers_draws (s : State) : (s.tickTimers).draws = s.draws := rfl
@[simp] theorem State.tickTimers_reg (s : State) (q : Reg) : (s.tickTimers).reg q = s.reg q := rfl
@[simp] theorem State.tickTimers_cell (s : State) (x : Fin 64) (y : Fin 32) : (s.tickTimers).cell x y = s.cell x y := rfl
@[simp] theorem State.tickTimers_readByte (s : State) (b : Nat) : (s.tickTimers).readByte b = s.readByte b := rfl
@[simp] theorem State.tickTimers_key (s : State) (k : Nat) : (s.tickTimers).key k = s.key k := rfl

/-! ## State.random -/

theorem State.random_eq (s : State) (rand : Byte) (x : Reg) (kk : Byte) :
    s.random rand x kk = .next ((State.setReg { s with draws := s.draws + 1 } x (rand &&& kk)).advance) := rfl

theorem State.result_eq (s : State) (x : Reg) (v : Byte) : s.result x v = .next (s.setReg x v).advance := rfl

/-! ## Registers -/

theorem State.reg_setReg (s : State) (r q : Reg) (v : Byte) : (s.setReg r v).reg q = if q = r then v else s.reg q := by
  simp only [State.reg, State.setReg, Vector.getElem_set, BitVec.toNat_inj, eq_comm]

@[simp] theorem State.reg_setReg_same (s : State) (r : Reg) (v : Byte) : (s.setReg r v).reg r = v := by
  simp [State.reg_setReg]

theorem State.reg_setReg_ne (s : State) (r q : Reg) (v : Byte) (h : q ≠ r) : (s.setReg r v).reg q = s.reg q := by
  simp [State.reg_setReg, h]

theorem State.reg_loadRegs (s : State) (x q : Reg) :
    (s.loadRegs x).reg q = if q.toNat ≤ x.toNat then s.readByte (s.I.toNat + q.toNat) else s.reg q := by
  simp [State.reg, State.loadRegs]

theorem State.reg_drawSprite (s : State) (x0 y0 : Byte) (rows : List Byte) (q : Reg) :
    (s.drawSprite x0 y0 rows).reg q =
      if q = VF then flag (Video.draw s.video false (spritePixels x0.toNat y0.toNat rows)).2 else s.reg q := by
  simp [State.drawSprite, State.reg_setReg]

@[simp] theorem State.cell_setVideo (s : State) (v : Video) (x : Fin 64) (y : Fin 32) :
    (s.setVideo v).cell x y = Video.cell v x y := rfl

@[simp] theorem State.readByte_writeBytes (s : State) (a : Nat) (bs : List Byte) (b : Nat) :
    (s.writeBytes a bs).readByte b = Memory.read (Memory.writeBytes s.mem a bs) b := rfl

@[simp] theorem State.fetch_setOpcode (s : State) (w : Word) : (s.setOpcode w).fetch = s.fetch := rfl

end Sys2Proof.Machine
end

