-- ==== Sys2Proof/Laws/Ops.lean ====
section
/-!
SUPPORT. What each shared operation can do, said once.
-/
namespace Sys2Proof.Machine

/-! ## The bounds check -/

theorem firstBadAddress_eq_none {base count : Nat} (h : base + count ≤ 4096 ∨ count = 0) : firstBadAddress base count = none := by
  have : ¬ (0 < count ∧ memSize ≤ base + count - 1) := by simp; omega
  simp only [firstBadAddress, this, if_false]

theorem firstBadAddress_eq_some {base count : Nat} (h0 : count ≠ 0) (h : 4096 < base + count) :
    firstBadAddress base count = some (max base 4096) := by
  have : 0 < count ∧ memSize ≤ base + count - 1 := by simp; omega
  rw [firstBadAddress, if_pos this]; rfl

/-- An access inside memory completes. -/
theorem State.withData_ok (s done : State) {count : Nat} (h : s.I.toNat + count ≤ 4096 ∨ count = 0) :
    s.withData count done = .next done := by
  simp only [State.withData, firstBadAddress_eq_none h]

/-- An access that reaches 4096 raises DataOutOfBounds with the lowest such address. -/
theorem State.withData_bad (s done : State) {count : Nat} (h0 : count ≠ 0) (h : 4096 < s.I.toNat + count) :
    s.withData count done = .next (s.raise .dataOutOfBounds (.address (max s.I.toNat 4096))) := by
  simp only [State.withData, firstBadAddress_eq_some h0 h]

/-- Everything `withData` can do. -/
theorem State.withData_cases {s done t : State} {count : Nat} (h : s.withData count done = .next t) :
    (t = done ∧ (s.I.toNat + count ≤ 4096 ∨ count = 0)) ∨
      (t = s.raise .dataOutOfBounds (.address (max s.I.toNat 4096)) ∧ count ≠ 0 ∧ 4096 < s.I.toNat + count) := by
  by_cases hc : s.I.toNat + count ≤ 4096 ∨ count = 0
  · rw [State.withData_ok s done hc] at h
    exact .inl ⟨(Host.Outcome.next.inj h).symm, hc⟩
  · rw [State.withData_bad s done (by omega) (by omega)] at h
    exact .inr ⟨(Host.Outcome.next.inj h).symm, by omega, by omega⟩

/-! ## The keypad -/

theorem State.key_of_lt (s : State) {k : Nat} (h : k < 16) : s.key k = some s.keypad[k] := by
  simp [State.key, h]

theorem State.key_of_ge (s : State) {k : Nat} (h : 16 ≤ k) : s.key k = none := by
  simp [State.key, h]

theorem State.lowestKey_some {s : State} {k : Nat} (h : s.lowestKey = some k) :
    ∃ hk : k < 16, s.keypad[k] = true ∧ ∀ j (hj : j < k), s.keypad[j] = false := by
  rw [State.lowestKey, List.findIdx?_eq_some_iff_getElem] at h
  obtain ⟨hk, h1, h2⟩ := h
  refine ⟨by simpa using hk, by simpa using h1, fun j hj => by simpa using h2 j hj⟩

theorem State.lowestKey_none {s : State} (h : s.lowestKey = none) (k : Nat) (hk : k < 16) : s.keypad[k] = false := by
  rw [State.lowestKey, List.findIdx?_eq_none_iff] at h
  have := h s.keypad[k] (by simp)
  simpa using this

theorem State.lowestKey_eq_some {s : State} {k : Nat} (hk : k < 16) (h1 : s.keypad[k] = true)
    (h2 : ∀ j (hj : j < k), s.keypad[j] = false) : s.lowestKey = some k := by
  rw [State.lowestKey, List.findIdx?_eq_some_iff_getElem]
  exact ⟨by simpa using hk, by simpa using h1, fun j hj => by simpa using h2 j hj⟩

theorem State.lowestKey_eq_none {s : State} (h : ∀ k (hk : k < 16), s.keypad[k] = false) : s.lowestKey = none := by
  rw [State.lowestKey, List.findIdx?_eq_none_iff]
  intro b hb
  obtain ⟨k, hk, rfl⟩ := List.getElem_of_mem hb
  have hk' : k < 16 := by simpa using hk
  simpa using h k hk'

/-! ## Register ranges and digits -/

theorem State.length_regsUpTo (s : State) (x : Reg) : (s.regsUpTo x).length = x.toNat + 1 := by
  have := x.isLt
  simp [State.regsUpTo]; omega

theorem State.getElem?_regsUpTo (s : State) (x r : Reg) (h : r.toNat ≤ x.toNat) : (s.regsUpTo x)[r.toNat]? = some (s.reg r) := by
  have := r.isLt
  have : r.toNat < x.toNat + 1 := by omega
  simp [State.regsUpTo, State.reg, this]

theorem zext16_toNat (nnn : Addr12) : (zext16 nnn).toNat = nnn.toNat := by
  have := nnn.isLt
  simp [zext16]; omega

theorem zextByte_toNat (b : Byte) : (zextByte b).toNat = b.toNat := by
  have := b.isLt
  simp [zextByte]; omega

theorem glyphAddress_toNat (v : Byte) : (glyphAddress v).toNat = 0x50 + 5 * v.toNat := by
  have := v.isLt
  simp [glyphAddress]; omega

/-! ## The display -/

theorem Video.cell_toggle (v : Video) (x px : Fin 64) (y py : Fin 32) :
    Video.cell (Video.toggle v x y) px py = if px = x ∧ py = y then !(Video.cell v x y) else Video.cell v px py := by
  simp only [Video.cell, Video.toggle, Vector.getElem_set]
  by_cases h : x = px
  · subst h
    by_cases h2 : y = py
    · subst h2; simp
    · have : ¬ y.val = py.val := fun e => h2 (Fin.ext e)
      have h3 : ¬ py = y := fun e => h2 e.symm
      simp [this, h3]
  · have : ¬ x.val = px.val := fun e => h (Fin.ext e)
    have h3 : ¬ px = x := fun e => h e.symm
    simp [this, h3]

theorem Video.cell_dark (x : Fin 64) (y : Fin 32) : Video.cell Video.dark x y = false := by
  simp [Video.cell, Video.dark]

/-- Drawing distinct pixels toggles exactly them. -/
theorem Video.cell_draw {ps : List (Fin 64 × Fin 32)} (h : ps.Nodup) (v : Video) (c : Bool) (px : Fin 64) (py : Fin 32) :
    Video.cell (Video.draw v c ps).1 px py = if (px, py) ∈ ps then !(Video.cell v px py) else Video.cell v px py := by
  induction ps generalizing v c with
  | nil => simp [Video.draw]
  | cons p rest ih =>
    rw [List.nodup_cons] at h
    rw [Video.draw, ih h.2, Video.cell_toggle]
    by_cases hp : (px, py) = p
    · subst hp
      simp [h.1]
    · have : ¬ (px = p.1 ∧ py = p.2) := fun e => hp (Prod.ext e.1 e.2)
      simp [this, hp]

/-- The collision flag of drawing distinct pixels: was any of them set. -/
theorem Video.collision_draw {ps : List (Fin 64 × Fin 32)} (h : ps.Nodup) (v : Video) (c : Bool) :
    (Video.draw v c ps).2 = true ↔ c = true ∨ ∃ p ∈ ps, Video.cell v p.1 p.2 = true := by
  induction ps generalizing v c with
  | nil => simp [Video.draw]
  | cons p rest ih =>
    rw [List.nodup_cons] at h
    rw [Video.draw, ih h.2]
    have same : ∀ q ∈ rest, Video.cell (Video.toggle v p.1 p.2) q.1 q.2 = Video.cell v q.1 q.2 := by
      intro q hq
      rw [Video.cell_toggle]
      have : ¬ (q.1 = p.1 ∧ q.2 = p.2) := by
        intro e
        have : q = p := Prod.ext e.1 e.2
        exact h.1 (this ▸ hq)
      simp [this]
    constructor
    · rintro (hc | ⟨q, hq, hs⟩)
      · rcases Bool.or_eq_true _ _ ▸ hc with hc | hc
        · exact .inl hc
        · exact .inr ⟨p, List.mem_cons_self, hc⟩
      · exact .inr ⟨q, List.mem_cons_of_mem _ hq, same q hq ▸ hs⟩
    · rintro (hc | ⟨q, hq, hs⟩)
      · exact .inl (by simp [hc])
      · rcases List.mem_cons.1 hq with rfl | hq
        · exact .inl (by simp [hs])
        · exact .inr ⟨q, hq, (same q hq).symm ▸ hs⟩

theorem mem_rowPixels {x0 y : Nat} {b : Byte} {px : Fin 64} {py : Fin 32} :
    (px, py) ∈ rowPixels x0 y b ↔
      ∃ col, col < 8 ∧ spriteBit b col = true ∧ px.val = (x0 + col) % 64 ∧ py.val = y % 32 := by
  simp only [rowPixels, List.mem_map, List.mem_filter, List.mem_range, Prod.mk.injEq, Fin.ext_iff, Fin.val_ofNat]
  constructor
  · rintro ⟨col, ⟨h1, h2⟩, h3, h4⟩; exact ⟨col, h1, h2, h3.symm, h4.symm⟩
  · rintro ⟨col, h1, h2, h3, h4⟩; exact ⟨col, ⟨h1, h2⟩, h3.symm, h4.symm⟩

/-- The cells a sprite covers. -/
theorem mem_spritePixels {x0 y0 : Nat} {rows : List Byte} {px : Fin 64} {py : Fin 32} :
    (px, py) ∈ spritePixels x0 y0 rows ↔
      ∃ row b, rows[row]? = some b ∧ ∃ col, col < 8 ∧ spriteBit b col = true ∧ px.val = (x0 + col) % 64
        ∧ py.val = (y0 + row) % 32 := by
  induction rows generalizing y0 with
  | nil => simp [spritePixels]
  | cons b rest ih =>
    rw [spritePixels, List.mem_append, mem_rowPixels, ih]
    constructor
    · rintro (h | ⟨row, c, hr, h⟩)
      · exact ⟨0, b, by simp, by simpa using h⟩
      · obtain ⟨col, h1, h2, h3, h4⟩ := h
        exact ⟨row + 1, c, by simpa using hr, col, h1, h2, h3, by rw [h4]; congr 1; omega⟩
    · rintro ⟨row, c, hr, col, h1, h2, h3, h4⟩
      cases row with
      | zero =>
        have : b = c := by simpa using hr
        subst this
        exact .inl ⟨col, h1, h2, h3, by simpa using h4⟩
      | succ row => exact .inr ⟨row, c, by simpa using hr, col, h1, h2, h3, by rw [h4]; congr 1; omega⟩

theorem nodup_rowPixels (x0 y : Nat) (b : Byte) : (rowPixels x0 y b).Nodup := by
  unfold rowPixels
  rw [List.Nodup, List.pairwise_map]
  refine List.Pairwise.imp_of_mem ?_ (List.nodup_range.filter _ : List.Pairwise (· ≠ ·) _)
  intro i j hi hj hne h
  apply hne
  have hi := List.mem_range.1 (List.mem_filter.1 hi).1
  have hj := List.mem_range.1 (List.mem_filter.1 hj).1
  simp only [Prod.mk.injEq, Fin.ext_iff, Fin.val_ofNat] at h
  omega

/-- A sprite of at most 32 rows never overlaps itself (41_display R112). -/
theorem nodup_spritePixels {rows : List Byte} (x0 y0 : Nat) (h : rows.length ≤ 32) : (spritePixels x0 y0 rows).Nodup := by
  induction rows generalizing y0 with
  | nil => simp [spritePixels]
  | cons b rest ih =>
    simp only [List.length_cons] at h
    rw [spritePixels, List.nodup_append]
    refine ⟨nodup_rowPixels x0 y0 b, ih (y0 + 1) (by omega), ?_⟩
    rintro ⟨px, py⟩ hp ⟨qx, qy⟩ hq e
    obtain ⟨rfl, rfl⟩ := Prod.mk.inj e
    obtain ⟨_, _, _, _, h1⟩ := mem_rowPixels.1 hp
    obtain ⟨row, c, hr, _, _, _, _, h2⟩ := mem_spritePixels.1 hq
    have : row < rest.length := by
      rw [List.getElem?_eq_some_iff] at hr; exact hr.1
    omega

theorem State.length_spriteRows (s : State) (n : Nibble) : (s.spriteRows n).length = n.toNat := Memory.length_readBytes _ _ _

theorem State.getElem?_spriteRows (s : State) (n : Nibble) (k : Nat) :
    (s.spriteRows n)[k]? = if k < n.toNat then some (s.readByte (s.I.toNat + k)) else none :=
  Memory.getElem?_readBytes _ _ _ _

/-! ## Fetch -/

theorem State.fetch_of_lt {s : State} (h : s.pc.toNat + 1 < 4096) :
    s.fetch = some (wordOfBytes (s.readByte s.pc.toNat) (s.readByte (s.pc.toNat + 1))) := by
  have : ¬ memSize ≤ s.pc.toNat + 1 := by simp; omega
  simp only [State.fetch, this, if_false]

theorem State.fetch_of_ge {s : State} (h : 4095 ≤ s.pc.toNat) : s.fetch = none := by
  have : memSize ≤ s.pc.toNat + 1 := by simp; omega
  simp only [State.fetch, this, if_true]

end Sys2Proof.Machine
end

