-- ==== Sys2Proof/Laws/Cycle.lean ====
section
/-!
SUPPORT. Everything a step, a return, a call and a key skip can do, each said once.
-/
namespace Sys2Proof.Machine

/-- A step that answers: a halted machine stays; no fetch, no instruction; else the fetched word runs, or it is unknown. -/
theorem cycle_cases {policy : UnknownOpcodePolicy} {s t : State} (h : cycle policy s = .next t) :
    (s.run = .haltedError ∧ t = s) ∨
    (s.run = .running ∧ 4095 ≤ s.pc.toNat ∧ t = s.fatal .outOfBounds none .none) ∨
    (s.run = .running ∧ s.pc.toNat + 1 < 4096 ∧ ∃ w, s.fetch = some w ∧
      ((∃ i, decode w = .instr i ∧ exec i (s.setOpcode w) = .next t) ∨
       ∃ u, decode w = .unknown u ∧ t = (s.setOpcode w).unknownOpcode policy u)) := by
  unfold cycle at h
  split at h <;> rename_i hr
  · cases h
    exact .inl ⟨hr, rfl⟩
  · by_cases hp : s.pc.toNat + 1 < 4096
    · refine .inr (.inr ⟨hr, hp, _, State.fetch_of_lt hp, ?_⟩)
      simp only [State.runStep, State.fetch_of_lt hp, State.runWord] at h
      split at h
      · rename_i i hd
        exact .inl ⟨i, hd, h⟩
      · rename_i u hd
        cases h
        exact .inr ⟨u, hd, rfl⟩
    · simp only [State.runStep, State.fetch_of_ge (show 4095 ≤ s.pc.toNat by omega)] at h
      cases h
      exact .inr (.inl ⟨hr, by omega, rfl⟩)

/-- A key skip that answers: on the level of a key, or BadKeyIndex. -/
theorem State.skipOnKey_cases {s t : State} {x : Reg} {pressed : Bool} (h : s.skipOnKey x pressed = .next t) :
    (∃ level, s.key (s.reg x).toNat = some level ∧ t = s.skipIf (level == pressed)) ∨
    (16 ≤ (s.reg x).toNat ∧ t = s.raise .badKeyIndex (.key (s.reg x))) := by
  unfold State.skipOnKey at h
  split at h <;> cases h
  · rename_i level hk
    exact .inl ⟨level, hk, rfl⟩
  · rename_i hk
    refine .inr ⟨?_, rfl⟩
    rcases Nat.lt_or_ge (s.reg x).toNat 16 with hl | hl
    · rw [State.key_of_lt s hl] at hk
      cases hk
    · exact hl

/-- A call that answers: the push and the jump, or StackOverflow. -/
theorem execCall_cases {s t : State} {nnn : Addr12} (h : execCall nnn s = .next t) :
    (s.sp.toNat < 16 ∧ t = (s.push (s.pc + 2#16)).setPc (zext16 nnn)) ∨
    (16 ≤ s.sp.toNat ∧ t = s.raise .stackOverflow .none) := by
  unfold execCall at h
  split at h <;> cases h
  · rename_i hs
    exact .inr ⟨hs, rfl⟩
  · rename_i hs
    exact .inl ⟨by omega, rfl⟩

/-- A return that answers: the pop and the jump, or StackUnderflow. -/
theorem execRet_cases {s t : State} (h : execRet s = .next t) :
    (∃ target, s.sp ≠ 0#8 ∧ s.top = some target ∧ t = s.drop.setPc target) ∨
    (s.sp = 0#8 ∧ t = s.raise .stackUnderflow .none) := by
  unfold execRet at h
  split at h
  · rename_i h0
    cases h
    exact .inr ⟨h0, rfl⟩
  · rename_i h0
    split at h <;> cases h
    rename_i target ht
    exact .inl ⟨target, h0, ht, rfl⟩

end Sys2Proof.Machine
end

