-- ==== Sys2Proof/Laws/HostOps.lean ====
section
/-!
SUPPORT. What construction and schedules can do, said once.
-/
namespace Sys2Proof.Machine

/-! ## Construction -/

@[simp] theorem State.construct_draws (s : State) (font : Font) : (s.construct font).draws = s.draws := rfl
@[simp] theorem State.construct_mem (s : State) (font : Font) :
    (s.construct font).mem = Memory.writeBytes [] fontBase font.toList := rfl

/-- Construction forgets the machine it starts from, but for the count of draws. -/
theorem State.construct_congr {s t : State} (font : Font) (h : s.draws = t.draws) : s.construct font = t.construct font := by
  unfold State.construct
  rw [h]

/-- The font area after construction, and the bytes outside it. -/
theorem State.readByte_construct (s : State) (font : Font) (a : Nat) :
    (s.construct font).readByte a = if 0x050 ≤ a ∧ a < 0x050 + 80 then font.toList.getD (a - 0x050) 0#8 else Memory.blank a := by
  rw [State.readByte, State.construct_mem, Memory.read_writeBytes, Vector.length_toList, Memory.read_nil, fontBase_eq]

/-- Construction leaves a canonical memory. -/
theorem State.wf_construct (s : State) (font : Font) : Memory.wf (s.construct font).mem :=
  Memory.wf_writeBytes ⟨List.Pairwise.nil, fun _ hc => absurd hc List.not_mem_nil⟩ _ _
    (by rw [Vector.length_toList, fontBase_eq, memSize_eq]; omega)

/-! ## Schedules -/

@[simp] theorem runSchedule_nil (session : Session) (s : State) : runSchedule session [] s = .next s := rfl

/-- The first operation of a schedule, then the rest. -/
theorem runSchedule_cons {session : Session} {op : HostOp} {ops : List HostOp} {s t : State} {r : HostResult}
    (h : perform session op s = .next (t, r)) : runSchedule session (op :: ops) s = runSchedule session ops t := by
  simp only [runSchedule, h]

/-- A schedule cut in two. -/
theorem runSchedule_append {session : Session} {ops more : List HostOp} {s t : State} (h : runSchedule session ops s = .next t) :
    runSchedule session (ops ++ more) s = runSchedule session more t := by
  induction ops generalizing s with
  | nil =>
    cases h
    rfl
  | cons op rest ih =>
    simp only [List.cons_append, runSchedule] at h ⊢
    split at h
    · exact ih h
    · cases h
    · cases h

/-- One more operation of an infinite schedule. -/
theorem runInfinite_succ {session : Session} {ops : InfiniteSchedule} {s t : State} {n : Nat}
    (h : runInfinite session ops s n = .next t) : runInfinite session ops s (n + 1) = runSchedule session [ops n] t := by
  simp only [runInfinite, h]

end Sys2Proof.Machine
end

