-- ==== Sys2Proof/Laws/PerInstr.lean ====
section
/-!
SUPPORT. One lemma per instruction: its format (30_encoding R72) is well-formed and spells the word the encoder lays out.
-/
namespace Sys2Proof.Laws.WordForm

@[simp] theorem fitsNibble_toNat (v : Nibble) : fitsNibble v.toNat = true := by
  simpa [fitsNibble] using v.isLt

@[simp] theorem fitsByte_toNat (v : Byte) : fitsByte v.toNat = true := by
  simpa [fitsByte] using v.isLt

@[simp] theorem fitsAddr_toNat (v : Addr12) : fitsAddr v.toNat = true := by
  simpa [fitsAddr] using v.isLt

/-- The word of an instruction is the one its format spells, and the format is well-formed. -/
def Statement (i : Instr) : Prop := (encode i).toNat = i.raw.word ∧ i.wellFormed = true

theorem cls : Statement .cls := ⟨rfl, rfl⟩

theorem ret : Statement .ret := ⟨rfl, rfl⟩

theorem jp (nnn : Addr12) : Statement (.jp nnn) := by
  refine ⟨?_, ?_⟩
  · simp [encode, encodeNnn_toNat, Instr.raw, Raw.word]
  · simp [Instr.wellFormed, Instr.raw, Raw.wellFormed]

theorem call (nnn : Addr12) : Statement (.call nnn) := by
  refine ⟨?_, ?_⟩
  · simp [encode, encodeNnn_toNat, Instr.raw, Raw.word]
  · simp [Instr.wellFormed, Instr.raw, Raw.wellFormed]

theorem seK (x : Reg) (kk : Byte) : Statement (.seK x kk) := by
  refine ⟨?_, ?_⟩
  · simp [encode, encodeXkk_toNat, Instr.raw, Raw.word]
  · simp [Instr.wellFormed, Instr.raw, Raw.wellFormed]

theorem sneK (x : Reg) (kk : Byte) : Statement (.sneK x kk) := by
  refine ⟨?_, ?_⟩
  · simp [encode, encodeXkk_toNat, Instr.raw, Raw.word]
  · simp [Instr.wellFormed, Instr.raw, Raw.wellFormed]

theorem seV (x : Reg) (y : Reg) : Statement (.seV x y) := by
  refine ⟨?_, ?_⟩
  · simp [encode, encodeXyn_toNat, Instr.raw, Raw.word]
  · simp [Instr.wellFormed, Instr.raw, Raw.wellFormed]

theorem ldK (x : Reg) (kk : Byte) : Statement (.ldK x kk) := by
  refine ⟨?_, ?_⟩
  · simp [encode, encodeXkk_toNat, Instr.raw, Raw.word]
  · simp [Instr.wellFormed, Instr.raw, Raw.wellFormed]

theorem addK (x : Reg) (kk : Byte) : Statement (.addK x kk) := by
  refine ⟨?_, ?_⟩
  · simp [encode, encodeXkk_toNat, Instr.raw, Raw.word]
  · simp [Instr.wellFormed, Instr.raw, Raw.wellFormed]

theorem ldV (x : Reg) (y : Reg) : Statement (.ldV x y) := by
  refine ⟨?_, ?_⟩
  · simp [encode, encodeXyn_toNat, Instr.raw, Raw.word]
  · simp [Instr.wellFormed, Instr.raw, Raw.wellFormed]

theorem orV (x : Reg) (y : Reg) : Statement (.orV x y) := by
  refine ⟨?_, ?_⟩
  · simp [encode, encodeXyn_toNat, Instr.raw, Raw.word]
  · simp [Instr.wellFormed, Instr.raw, Raw.wellFormed]

theorem andV (x : Reg) (y : Reg) : Statement (.andV x y) := by
  refine ⟨?_, ?_⟩
  · simp [encode, encodeXyn_toNat, Instr.raw, Raw.word]
  · simp [Instr.wellFormed, Instr.raw, Raw.wellFormed]

theorem xorV (x : Reg) (y : Reg) : Statement (.xorV x y) := by
  refine ⟨?_, ?_⟩
  · simp [encode, encodeXyn_toNat, Instr.raw, Raw.word]
  · simp [Instr.wellFormed, Instr.raw, Raw.wellFormed]

theorem addV (x : Reg) (y : Reg) : Statement (.addV x y) := by
  refine ⟨?_, ?_⟩
  · simp [encode, encodeXyn_toNat, Instr.raw, Raw.word]
  · simp [Instr.wellFormed, Instr.raw, Raw.wellFormed]

theorem subV (x : Reg) (y : Reg) : Statement (.subV x y) := by
  refine ⟨?_, ?_⟩
  · simp [encode, encodeXyn_toNat, Instr.raw, Raw.word]
  · simp [Instr.wellFormed, Instr.raw, Raw.wellFormed]

theorem shr (x : Reg) (y : Reg) : Statement (.shr x y) := by
  refine ⟨?_, ?_⟩
  · simp [encode, encodeXyn_toNat, Instr.raw, Raw.word]
  · simp [Instr.wellFormed, Instr.raw, Raw.wellFormed]

theorem subn (x : Reg) (y : Reg) : Statement (.subn x y) := by
  refine ⟨?_, ?_⟩
  · simp [encode, encodeXyn_toNat, Instr.raw, Raw.word]
  · simp [Instr.wellFormed, Instr.raw, Raw.wellFormed]

theorem shl (x : Reg) (y : Reg) : Statement (.shl x y) := by
  refine ⟨?_, ?_⟩
  · simp [encode, encodeXyn_toNat, Instr.raw, Raw.word]
  · simp [Instr.wellFormed, Instr.raw, Raw.wellFormed]

theorem sneV (x : Reg) (y : Reg) : Statement (.sneV x y) := by
  refine ⟨?_, ?_⟩
  · simp [encode, encodeXyn_toNat, Instr.raw, Raw.word]
  · simp [Instr.wellFormed, Instr.raw, Raw.wellFormed]

theorem ldI (nnn : Addr12) : Statement (.ldI nnn) := by
  refine ⟨?_, ?_⟩
  · simp [encode, encodeNnn_toNat, Instr.raw, Raw.word]
  · simp [Instr.wellFormed, Instr.raw, Raw.wellFormed]

theorem jpV0 (nnn : Addr12) : Statement (.jpV0 nnn) := by
  refine ⟨?_, ?_⟩
  · simp [encode, encodeNnn_toNat, Instr.raw, Raw.word]
  · simp [Instr.wellFormed, Instr.raw, Raw.wellFormed]

theorem rnd (x : Reg) (kk : Byte) : Statement (.rnd x kk) := by
  refine ⟨?_, ?_⟩
  · simp [encode, encodeXkk_toNat, Instr.raw, Raw.word]
  · simp [Instr.wellFormed, Instr.raw, Raw.wellFormed]

theorem drw (x : Reg) (y : Reg) (n : Nibble) : Statement (.drw x y n) := by
  refine ⟨?_, ?_⟩
  · simp [encode, encodeXyn_toNat, Instr.raw, Raw.word]
  · simp [Instr.wellFormed, Instr.raw, Raw.wellFormed]

theorem skp (x : Reg) : Statement (.skp x) := by
  refine ⟨?_, ?_⟩
  · simp [encode, encodeXkk_toNat, Instr.raw, Raw.word]
  · simp [Instr.wellFormed, Instr.raw, Raw.wellFormed]

theorem sknp (x : Reg) : Statement (.sknp x) := by
  refine ⟨?_, ?_⟩
  · simp [encode, encodeXkk_toNat, Instr.raw, Raw.word]
  · simp [Instr.wellFormed, Instr.raw, Raw.wellFormed]

theorem ldVDt (x : Reg) : Statement (.ldVDt x) := by
  refine ⟨?_, ?_⟩
  · simp [encode, encodeXkk_toNat, Instr.raw, Raw.word]
  · simp [Instr.wellFormed, Instr.raw, Raw.wellFormed]

theorem ldVK (x : Reg) : Statement (.ldVK x) := by
  refine ⟨?_, ?_⟩
  · simp [encode, encodeXkk_toNat, Instr.raw, Raw.word]
  · simp [Instr.wellFormed, Instr.raw, Raw.wellFormed]

theorem ldDtV (x : Reg) : Statement (.ldDtV x) := by
  refine ⟨?_, ?_⟩
  · simp [encode, encodeXkk_toNat, Instr.raw, Raw.word]
  · simp [Instr.wellFormed, Instr.raw, Raw.wellFormed]

theorem ldStV (x : Reg) : Statement (.ldStV x) := by
  refine ⟨?_, ?_⟩
  · simp [encode, encodeXkk_toNat, Instr.raw, Raw.word]
  · simp [Instr.wellFormed, Instr.raw, Raw.wellFormed]

theorem addI (x : Reg) : Statement (.addI x) := by
  refine ⟨?_, ?_⟩
  · simp [encode, encodeXkk_toNat, Instr.raw, Raw.word]
  · simp [Instr.wellFormed, Instr.raw, Raw.wellFormed]

theorem ldF (x : Reg) : Statement (.ldF x) := by
  refine ⟨?_, ?_⟩
  · simp [encode, encodeXkk_toNat, Instr.raw, Raw.word]
  · simp [Instr.wellFormed, Instr.raw, Raw.wellFormed]

theorem ldB (x : Reg) : Statement (.ldB x) := by
  refine ⟨?_, ?_⟩
  · simp [encode, encodeXkk_toNat, Instr.raw, Raw.word]
  · simp [Instr.wellFormed, Instr.raw, Raw.wellFormed]

theorem stRegs (x : Reg) : Statement (.stRegs x) := by
  refine ⟨?_, ?_⟩
  · simp [encode, encodeXkk_toNat, Instr.raw, Raw.word]
  · simp [Instr.wellFormed, Instr.raw, Raw.wellFormed]

theorem ldRegs (x : Reg) : Statement (.ldRegs x) := by
  refine ⟨?_, ?_⟩
  · simp [encode, encodeXkk_toNat, Instr.raw, Raw.word]
  · simp [Instr.wellFormed, Instr.raw, Raw.wellFormed]

end Sys2Proof.Laws.WordForm
end

