-- ==== Sys2Proof/Listing.lean ====
section
/-!
DEFINITION. The listing syntax of 30_encoding R79 (notation only: 92 D18, 93 X3; log 30). R80: there are no pseudo-instructions, so each
instruction has one mnemonic form here and one word in Decode.lean.
-/
namespace Sys2Proof

/-- A hexadecimal digit. -/
def hexDigit (d : Nat) : String :=
  ["0", "1", "2", "3", "4", "5", "6", "7", "8", "9", "A", "B", "C", "D", "E", "F"].getD d "?"

/-- A register: V0..V9, VA..VF. -/
def listReg (r : Reg) : String := "V" ++ hexDigit r.toNat

/-- A nibble in hexadecimal. -/
def listNibble (n : Nibble) : String := "0x" ++ hexDigit n.toNat

/-- A byte in hexadecimal. -/
def listByte (b : Byte) : String := "0x" ++ hexDigit (b.toNat / 16) ++ hexDigit (b.toNat % 16)

/-- An address of up to 12 bits in hexadecimal. -/
def listAddr (a : Addr12) : String :=
  "0x" ++ hexDigit (a.toNat / 256) ++ hexDigit (a.toNat / 16 % 16) ++ hexDigit (a.toNat % 16)

/-- The word of an instruction in a listing: four digits, high byte first. -/
def listWord (w : Word) : String :=
  hexDigit (w.toNat / 4096) ++ hexDigit (w.toNat / 256 % 16) ++ hexDigit (w.toNat / 16 % 16) ++ hexDigit (w.toNat % 16)

/-- The mnemonic and operands of an instruction. SHR and SHL are written with both registers, so that a listing round-trips. -/
def Instr.listing : Instr → String
  | .cls => "CLS"
  | .ret => "RET"
  | .jp a => "JP " ++ listAddr a
  | .call a => "CALL " ++ listAddr a
  | .seK x kk => "SE " ++ listReg x ++ ", " ++ listByte kk
  | .sneK x kk => "SNE " ++ listReg x ++ ", " ++ listByte kk
  | .seV x y => "SE " ++ listReg x ++ ", " ++ listReg y
  | .ldK x kk => "LD " ++ listReg x ++ ", " ++ listByte kk
  | .addK x kk => "ADD " ++ listReg x ++ ", " ++ listByte kk
  | .ldV x y => "LD " ++ listReg x ++ ", " ++ listReg y
  | .orV x y => "OR " ++ listReg x ++ ", " ++ listReg y
  | .andV x y => "AND " ++ listReg x ++ ", " ++ listReg y
  | .xorV x y => "XOR " ++ listReg x ++ ", " ++ listReg y
  | .addV x y => "ADD " ++ listReg x ++ ", " ++ listReg y
  | .subV x y => "SUB " ++ listReg x ++ ", " ++ listReg y
  | .shr x y => "SHR " ++ listReg x ++ ", " ++ listReg y
  | .subn x y => "SUBN " ++ listReg x ++ ", " ++ listReg y
  | .shl x y => "SHL " ++ listReg x ++ ", " ++ listReg y
  | .sneV x y => "SNE " ++ listReg x ++ ", " ++ listReg y
  | .ldI a => "LD I, " ++ listAddr a
  | .jpV0 a => "JP V0, " ++ listAddr a
  | .rnd x kk => "RND " ++ listReg x ++ ", " ++ listByte kk
  | .drw x y n => "DRW " ++ listReg x ++ ", " ++ listReg y ++ ", " ++ listNibble n
  | .skp x => "SKP " ++ listReg x
  | .sknp x => "SKNP " ++ listReg x
  | .ldVDt x => "LD " ++ listReg x ++ ", DT"
  | .ldVK x => "LD " ++ listReg x ++ ", K"
  | .ldDtV x => "LD DT, " ++ listReg x
  | .ldStV x => "LD ST, " ++ listReg x
  | .addI x => "ADD I, " ++ listReg x
  | .ldF x => "LD F, " ++ listReg x
  | .ldB x => "LD B, " ++ listReg x
  | .stRegs x => "LD [I], " ++ listReg x
  | .ldRegs x => "LD " ++ listReg x ++ ", [I]"

/-- `DB b1, b2, ...` places raw bytes (R79); it emits them verbatim (R80). -/
def listRaw (bytes : List Byte) : String := "DB " ++ ", ".intercalate (bytes.map listByte)

end Sys2Proof
end

