-- ==== Sys2Proof/Tests/Slice0.lean ====
section
/-!
SUPPORT. Tests with expected values from the spec's encodings (30_encoding) and test vectors (95_test_vectors), and for each statement with hypotheses a
state and operands that meet them.
-/
namespace Sys2Proof.Tests

open Sys2Proof Sys2Proof.Machine

/-! ## Helpers -/

/-- After construct(), with pc at 0x200. -/
def start : State := { State.reset with pc := 0x200#16 }

/-- `start` with the listed registers. -/
def regs (rs : List (Reg × Byte)) : State := rs.foldl (fun s p => s.setReg p.1 p.2) start

/-- The word at 0x200, big-endian. -/
def put (w : Word) (s : State) : State := s.writeBytes 0x200 [w.extractLsb' 8 8, w.extractLsb' 0 8]

/-- One step under a policy, where it answers a next state. -/
def stepped (policy : UnknownOpcodePolicy) (s : State) : Option State :=
  match cycle policy s with
  | .next t => some t
  | .fault _ => none
  | .refused _ => none

/-- One step that runs the word at 0x200, then a look at the result. -/
def look {α : Type} (w : Word) (s : State) (f : State → α) : Option α := (stepped .halt (put w s)).map f

/-- The record left by the word at 0x200. -/
def faultOf (w : Word) (s : State) : Option (Option FaultRecord) := look w s State.fault

/-- `exec` answers a next state. -/
def runs (i : Instr) (s : State) : Bool :=
  match exec i s with
  | .next _ => true
  | .fault _ => false
  | .refused _ => false

/-! ## Decoding: words written out from the patterns of 30_encoding R75, digit by digit -/

theorem test_decode_cls : decode 0b0000000011100000#16 = .instr .cls := by decide
theorem test_decode_ret : decode 0b0000000011101110#16 = .instr .ret := by decide
theorem test_decode_jp : decode 0b0001101010111100#16 = .instr (.jp 0xABC#12) := by decide
theorem test_decode_call : decode 0b0010110111101111#16 = .instr (.call 0xDEF#12) := by decide
theorem test_decode_seK : decode 0b0011101001011100#16 = .instr (.seK 0xA#4 0x5C#8) := by decide
theorem test_decode_sneK : decode 0b0100001101111110#16 = .instr (.sneK 0x3#4 0x7E#8) := by decide
theorem test_decode_seV : decode 0b0101000100100000#16 = .instr (.seV 1#4 2#4) := by decide
theorem test_decode_ldK : decode 0b0110101001011100#16 = .instr (.ldK 0xA#4 0x5C#8) := by decide
theorem test_decode_addK : decode 0b0111001100000001#16 = .instr (.addK 3#4 1#8) := by decide
theorem test_decode_ldV : decode 0b1000000100100000#16 = .instr (.ldV 1#4 2#4) := by decide
theorem test_decode_orV : decode 0b1000000100100001#16 = .instr (.orV 1#4 2#4) := by decide
theorem test_decode_andV : decode 0b1000000100100010#16 = .instr (.andV 1#4 2#4) := by decide
theorem test_decode_xorV : decode 0b1000000100100011#16 = .instr (.xorV 1#4 2#4) := by decide
theorem test_decode_addV : decode 0b1000000100100100#16 = .instr (.addV 1#4 2#4) := by decide
theorem test_decode_subV : decode 0b1000000100100101#16 = .instr (.subV 1#4 2#4) := by decide
theorem test_decode_shr : decode 0b1000000100100110#16 = .instr (.shr 1#4 2#4) := by decide
theorem test_decode_subn : decode 0b1000000100100111#16 = .instr (.subn 1#4 2#4) := by decide
theorem test_decode_shl : decode 0b1000000100101110#16 = .instr (.shl 1#4 2#4) := by decide
theorem test_decode_sneV : decode 0b1001000100100000#16 = .instr (.sneV 1#4 2#4) := by decide
theorem test_decode_ldI : decode 0b1010000100100011#16 = .instr (.ldI 0x123#12) := by decide
theorem test_decode_jpV0 : decode 0b1011010100000000#16 = .instr (.jpV0 0x500#12) := by decide
theorem test_decode_rnd : decode 0b1100000100001111#16 = .instr (.rnd 1#4 0x0F#8) := by decide
theorem test_decode_drw : decode 0b1101000100100101#16 = .instr (.drw 1#4 2#4 5#4) := by decide
theorem test_decode_skp : decode 0b1110000110011110#16 = .instr (.skp 1#4) := by decide
theorem test_decode_sknp : decode 0b1110000110100001#16 = .instr (.sknp 1#4) := by decide
theorem test_decode_ldVDt : decode 0b1111001100000111#16 = .instr (.ldVDt 3#4) := by decide
theorem test_decode_ldVK : decode 0b1111000100001010#16 = .instr (.ldVK 1#4) := by decide
theorem test_decode_ldDtV : decode 0b1111001100010101#16 = .instr (.ldDtV 3#4) := by decide
theorem test_decode_ldStV : decode 0b1111001000011000#16 = .instr (.ldStV 2#4) := by decide
theorem test_decode_addI : decode 0b1111001000011110#16 = .instr (.addI 2#4) := by decide
theorem test_decode_ldF : decode 0b1111000100101001#16 = .instr (.ldF 1#4) := by decide
theorem test_decode_ldB : decode 0b1111000100110011#16 = .instr (.ldB 1#4) := by decide
theorem test_decode_stRegs : decode 0b1111001001010101#16 = .instr (.stRegs 2#4) := by decide
theorem test_decode_ldRegs : decode 0b1111000101100101#16 = .instr (.ldRegs 1#4) := by decide

/-- V1.8: words of no row. -/
theorem test_decode_unknown :
    [0x0123#16, 0x00E1#16, 0x5121#16, 0x8128#16, 0x800F#16, 0x912F#16, 0xE19F#16, 0xF1FF#16, 0xF000#16].map decode
      = [0x0123#16, 0x00E1#16, 0x5121#16, 0x8128#16, 0x800F#16, 0x912F#16, 0xE19F#16, 0xF1FF#16, 0xF000#16].map .unknown := by
  decide

/-- R70: two bytes at a time, the bytes after them left over. -/
theorem test_decode_bytes :
    decodeBytes [0x12#8, 0x34#8, 0x56#8] = .instr (.jp 0x234#12) [0x56#8] ∧ decodeBytes [0x12#8] = .truncated
      ∧ decodeTableWord 16 0x812E = some (.shl 1#4 2#4) ∧ decodeTableWord 16 0x812F = none := by decide

/-- R75's examples of words written from instructions. -/
theorem test_encode : encode (.drw 1#4 2#4 5#4) = 0xD125#16 ∧ encode (.ldI 0x300#12) = 0xA300#16
    ∧ encode (.seK 0#4 5#8) = 0x3005#16 ∧ encode (.ldB 0xA#4) = 0xFA33#16 := by decide

/-- R79: lines of the listings of P1 and P2. -/
theorem test_listing : (Instr.ldK 1#4 0x0A#8).listing = "LD V1, 0x0A" ∧ (Instr.jp 0x204#12).listing = "JP 0x204"
    ∧ (Instr.ldB 0xA#4).listing = "LD B, VA" ∧ (Instr.ldRegs 2#4).listing = "LD V2, [I]" ∧ listWord 0xFA33#16 = "FA33" := by
  decide

/-! ## Well-formedness: each check refuses an ill-formed term -/

theorem test_wf_accepts : [Raw.fix 0xE0, .nnn 0xB 4095, .xkk 0xC 15 255, .xy 8 15 15 0xE, .xyn 0xD 15 15 15, .xs 0xF 15 0x65].map
    Raw.wellFormed = [true, true, true, true, true, true] := by decide
theorem test_wf_addr_too_wide : (Raw.nnn 0x1 4096).wellFormed = false := by decide
theorem test_wf_byte_too_wide : (Raw.xkk 0x3 0 256).wellFormed = false := by decide
theorem test_wf_x_too_wide : [Raw.xkk 0x3 16 0, .xy 0x8 16 0 0, .xyn 0xD 16 0 0, .xs 0xE 16 0x9E].map Raw.wellFormed
    = [false, false, false, false] := by decide
theorem test_wf_y_too_wide : [Raw.xy 0x8 0 16 0, .xyn 0xD 0 16 0].map Raw.wellFormed = [false, false] := by decide
theorem test_wf_n_too_wide : (Raw.xyn 0xD 0 0 16).wellFormed = false := by decide
theorem test_wf_fix_other_byte : (Raw.fix 0xE1).wellFormed = false := by decide
theorem test_wf_nnn_other_op : (Raw.nnn 0x0 0).wellFormed = false := by decide
theorem test_wf_xkk_other_op : (Raw.xkk 0x5 0 0).wellFormed = false := by decide
theorem test_wf_xy_other_sub : [Raw.xy 0x8 0 0 8, .xy 0x5 0 0 1, .xy 0x9 0 0 1].map Raw.wellFormed = [false, false, false] := by decide
theorem test_wf_xyn_other_op : (Raw.xyn 0xC 0 0 0).wellFormed = false := by decide
theorem test_wf_xs_other_sub : [Raw.xs 0xE 0 0x07, .xs 0xF 0 0x9E].map Raw.wellFormed = [false, false] := by decide

/-! ## The step (V1, P5) -/

/-- V1.1: the fetch is big-endian and `opcode` takes the word. -/
theorem test_fetch_big_endian : look 0x1234#16 start (fun t => (t.opcode, t.pc)) = some (0x1234#16, 0x234#16) := by decide

/-- V1.2: the last legal fetch, at 0xFFE. -/
theorem test_fetch_last_word :
    (stepped .halt ({ start with pc := 0xFFE#16 }.writeBytes 0xFFE [0x60#8, 0x07#8])).map (fun t => (t.reg 0#4, t.pc, t.run))
      = some (7#8, 0x1000#16, .running) := by decide

/-- V1.4: no fetch at 0xFFF. -/
theorem test_fetch_beyond_memory :
    (stepped .halt { start with pc := 0xFFF#16 }).map State.fault
      = some (some { kind := .outOfBounds, pc := 0xFFF#16, word := none, info := .none }) := by decide

/-- V1.5: an odd pc is fetched normally. -/
theorem test_fetch_odd_pc :
    (stepped .halt ({ start with pc := 0x201#16 }.writeBytes 0x201 [0x61#8, 0x05#8])).map (fun t => (t.reg 1#4, t.pc))
      = some (5#8, 0x203#16) := by decide

/-- V1.6: construct() alone fetches 0x0000 at 0, an unknown word. -/
theorem test_step_after_construct :
    (stepped .halt State.reset).map (fun t => (t.run, t.fault))
      = some (.haltedError, some { kind := .unknownOpcode, pc := 0#16, word := some 0#16, info := .none }) := by decide

/-- V1.10 and V1.11: an unknown word under each policy. -/
theorem test_unknown_skip :
    (stepped .skip (put 0x5121#16 start)).map (fun t => (t.run, t.pc, t.opcode, stepResult (put 0x5121#16 start) t))
      = some (.running, 0x202#16, 0x5121#16,
          .reported { kind := .unknownOpcode, pc := 0x200#16, word := some 0x5121#16, info := .none }) := by decide
theorem test_unknown_halt : look 0x8128#16 (regs [(1#4, 9#8)]) (fun t => (t.run, t.pc, t.reg 1#4, t.fault))
    = some (.haltedError, 0x200#16, 9#8,
        some { kind := .unknownOpcode, pc := 0x200#16, word := some 0x8128#16, info := .none }) := by decide

/-- A placed word is the one the next step fetches, from construct() too. -/
theorem test_placed_word : (State.reset.withFetchWord 16 0x6A5C).fetch = some 0x6A5C#16
    ∧ (stepped .halt (State.reset.withFetchWord 16 0x6A5C)).map (fun t => (t.reg 0xA#4, t.pc)) = some (0x5C#8, 2#16) := by decide

/-! ## Display (V2) -/

/-- `start` with a sprite at 0x300 and two registers. -/
def sprite (bytes : List Byte) (v1 v2 : Byte) : State :=
  { regs [(1#4, v1), (2#4, v2)] with I := 0x300#16 }.writeBytes 0x300 bytes

theorem test_cls : look 0x00E0#16 { regs [(15#4, 9#8)] with video := Vector.replicate 64 (Vector.replicate 32 true) }
    (fun t => (t.cell 0 0, t.cell 63 31, t.reg 15#4, t.pc)) = some (false, false, 9#8, 0x202#16) := by decide

/-- V2.3: the row wraps to column 0. -/
theorem test_drw_row_wraps : look 0xD121#16 (sprite [0xFF#8] 60#8 31#8)
    (fun t => ([t.cell 60 31, t.cell 63 31, t.cell 0 31, t.cell 3 31, t.cell 4 31, t.cell 59 31], t.reg 15#4))
      = some ([true, true, true, true, false, false], 0#8) := by decide

/-- V2.6: a set cell under a 1 bit is cleared, and VF is 1. -/
theorem test_drw_collides : look 0xD121#16 { sprite [0xC0#8] 0#8 0#8 with video := Video.toggle Video.dark 1 0 }
    (fun t => (t.cell 0 0, t.cell 1 0, t.cell 2 0, t.reg 15#4)) = some (true, false, false, 1#8) := by decide

/-! ## Control transfer and skips (V3) -/

theorem test_jp : look 0x1ABC#16 start State.pc = some 0xABC#16 := by decide
theorem test_jp_odd : look 0x1201#16 start (fun t => (t.pc, t.run)) = some (0x201#16, .running) := by decide
theorem test_call_last_level : look 0x2300#16 { start with sp := 15#8 } (fun t => (t.stack[15], t.sp, t.pc))
    = some (0x202#16, 16#8, 0x300#16) := by decide
theorem test_call_overflows : look 0x2300#16 { start with sp := 16#8 } (fun t => (t.sp, t.pc, t.fault))
    = some (16#8, 0x200#16, some { kind := .stackOverflow, pc := 0x200#16, word := some 0x2300#16, info := .none }) := by decide
theorem test_ret : look 0x00EE#16 { start with sp := 1#8, stack := start.stack.set 0 0x206#16 } (fun t => (t.sp, t.pc, t.stack[0]))
    = some (0#8, 0x206#16, 0x206#16) := by decide
theorem test_ret_underflows : look 0x00EE#16 start (fun t => (t.sp, t.pc, t.fault))
    = some (0#8, 0x200#16, some { kind := .stackUnderflow, pc := 0x200#16, word := some 0x00EE#16, info := .none }) := by decide
theorem test_seK : look 0x3112#16 (regs [(1#4, 0x12#8)]) State.pc = some 0x204#16 := by decide
theorem test_seK_differs : look 0x3113#16 (regs [(1#4, 0x12#8)]) State.pc = some 0x202#16 := by decide
theorem test_sneK : look 0x4113#16 (regs [(1#4, 0x12#8)]) State.pc = some 0x204#16 := by decide
theorem test_sneK_equal : look 0x4112#16 (regs [(1#4, 0x12#8)]) State.pc = some 0x202#16 := by decide
theorem test_seV : look 0x5120#16 (regs [(1#4, 7#8), (2#4, 7#8)]) State.pc = some 0x204#16 := by decide
theorem test_seV_differs : look 0x5120#16 (regs [(1#4, 7#8), (2#4, 8#8)]) State.pc = some 0x202#16 := by decide
theorem test_sneV : look 0x9120#16 (regs [(1#4, 7#8), (2#4, 8#8)]) State.pc = some 0x204#16 := by decide
theorem test_sneV_same : look 0x9440#16 (regs [(4#4, 1#8)]) State.pc = some 0x202#16 := by decide
theorem test_jpV0 : look 0xBFFF#16 (regs [(0#4, 0xFF#8)]) State.pc = some 0x10FE#16 := by decide
theorem test_jpV0_reads_v0 : look 0xB500#16 (regs [(0#4, 1#8), (5#4, 0x80#8)]) State.pc = some 0x501#16 := by decide

/-! ## Arithmetic (W1, W2, V4) -/

theorem test_ldK : look 0x6A5C#16 start (fun t => (t.reg 0xA#4, t.pc)) = some (0x5C#8, 0x202#16) := by decide
theorem test_addK_wraps : look 0x7301#16 (regs [(3#4, 0xFF#8)]) (fun t => (t.reg 3#4, t.reg 15#4)) = some (0#8, 0#8) := by decide
theorem test_addK_vf : look 0x7F03#16 (regs [(15#4, 0xFE#8)]) (·.reg 15#4) = some 1#8 := by decide
theorem test_ldV : look 0x8120#16 (regs [(1#4, 0x22#8), (2#4, 0x77#8)]) (fun t => (t.reg 1#4, t.reg 2#4)) = some (0x77#8, 0x77#8) := by
  decide
theorem test_orV : look 0x8121#16 (regs [(1#4, 0xF0#8), (2#4, 0x0F#8), (15#4, 7#8)]) (fun t => (t.reg 1#4, t.reg 15#4))
    = some (0xFF#8, 7#8) := by decide
theorem test_andV : look 0x8122#16 (regs [(1#4, 0xF0#8), (2#4, 0x3C#8)]) (·.reg 1#4) = some 0x30#8 := by decide
theorem test_xorV : look 0x8123#16 (regs [(1#4, 0x3C#8), (2#4, 0x0F#8)]) (·.reg 1#4) = some 0x33#8 := by decide
theorem test_addV_carry : look 0x8124#16 (regs [(1#4, 0xFF#8), (2#4, 0xFF#8)]) (fun t => (t.reg 1#4, t.reg 15#4))
    = some (0xFE#8, 1#8) := by decide
theorem test_addV_vf_operand : look 0x81F4#16 (regs [(1#4, 0x10#8), (15#4, 1#8)]) (fun t => (t.reg 1#4, t.reg 15#4))
    = some (0x11#8, 0#8) := by decide
theorem test_subV_borrow : look 0x8125#16 (regs [(1#4, 3#8), (2#4, 5#8)]) (fun t => (t.reg 1#4, t.reg 15#4))
    = some (0xFE#8, 0#8) := by decide
theorem test_subV_vf_operand : look 0x81F5#16 (regs [(1#4, 5#8), (15#4, 3#8)]) (fun t => (t.reg 1#4, t.reg 15#4))
    = some (4#8, 1#8) := by decide
theorem test_shr : look 0x8126#16 (regs [(1#4, 5#8), (2#4, 0xAA#8)]) (fun t => (t.reg 1#4, t.reg 15#4, t.reg 2#4))
    = some (2#8, 1#8, 0xAA#8) := by decide
theorem test_shr_vf : look 0x8F26#16 (regs [(15#4, 0xFF#8)]) (·.reg 15#4) = some 0#8 := by decide
theorem test_subn : look 0x8127#16 (regs [(1#4, 5#8), (2#4, 3#8)]) (fun t => (t.reg 1#4, t.reg 15#4)) = some (0xFE#8, 0#8) := by decide
theorem test_subn_vf : look 0x8F27#16 (regs [(15#4, 3#8), (2#4, 5#8)]) (·.reg 15#4) = some 4#8 := by decide
theorem test_shl : look 0x812E#16 (regs [(1#4, 0x81#8)]) (fun t => (t.reg 1#4, t.reg 15#4)) = some (2#8, 1#8) := by decide
theorem test_shl_vf : look 0x8F2E#16 (regs [(15#4, 0x80#8)]) (·.reg 15#4) = some 2#8 := by decide

/-- V4.30: with the random byte given. -/
theorem test_rnd_masks :
    (match start.random 0xA5#8 1#4 0x0F#8 with
      | .next t => some (t.reg 1#4, t.pc, t.draws)
      | .fault _ => none
      | .refused _ => none) = some (5#8, 0x202#16, 1) := by decide

/-! ## Index and memory (V5) -/

theorem test_ldI : look 0xA123#16 start State.I = some 0x123#16 := by decide
theorem test_addI_no_flag : look 0xF11E#16 { regs [(1#4, 1#8)] with I := 0x0FFF#16 } (fun t => (t.I, t.reg 15#4))
    = some (0x1000#16, 0#8) := by decide
theorem test_addI_wraps : look 0xF11E#16 { regs [(1#4, 2#8)] with I := 0xFFFF#16 } State.I = some 1#16 := by decide
theorem test_ldF : look 0xF129#16 (regs [(1#4, 0x0A#8)]) State.I = some 0x082#16 := by decide
theorem test_ldF_no_mask : look 0xF129#16 (regs [(1#4, 0xFF#8)]) State.I = some 0x54B#16 := by decide

/-- V5.10, V5.11: the last address at which three digits fit, and the next one. -/
theorem test_ldB : look 0xF133#16 { regs [(1#4, 123#8)] with I := 0xFFD#16 }
    (fun t => (t.readByte 0xFFD, t.readByte 0xFFE, t.readByte 0xFFF, t.I, t.run)) = some (1#8, 2#8, 3#8, 0xFFD#16, .running) := by decide
theorem test_ldB_faults : faultOf 0xF133#16 { start with I := 0xFFE#16 }
    = some (some { kind := .dataOutOfBounds, pc := 0x200#16, word := some 0xF133#16, info := .address 0x1000 }) := by decide

theorem test_stRegs : look 0xF255#16 { regs [(0#4, 1#8), (1#4, 2#8), (2#4, 3#8), (3#4, 4#8)] with I := 0x400#16 }
    (fun t => (t.readByte 0x400, t.readByte 0x401, t.readByte 0x402, t.readByte 0x403, t.I)) = some (1#8, 2#8, 3#8, 0#8, 0x400#16) := by
  decide
theorem test_stRegs_faults : faultOf 0xF155#16 { start with I := 0xFFF#16 }
    = some (some { kind := .dataOutOfBounds, pc := 0x200#16, word := some 0xF155#16, info := .address 0x1000 }) := by decide
theorem test_ldRegs : look 0xF265#16 ({ regs [(3#4, 9#8)] with I := 0x300#16 }.writeBytes 0x300 [1#8, 5#8, 6#8, 7#8])
    (fun t => (t.reg 0#4, t.reg 1#4, t.reg 2#4, t.reg 3#4, t.I)) = some (1#8, 5#8, 6#8, 9#8, 0x300#16) := by decide
theorem test_ldRegs_faults : faultOf 0xF065#16 { start with I := 0x1000#16 }
    = some (some { kind := .dataOutOfBounds, pc := 0x200#16, word := some 0xF065#16, info := .address 0x1000 }) := by decide

/-! ## Keypad and timers (V6) -/

/-- `start` with V1 and the listed keys pressed. -/
def keys (v1 : Byte) (ks : List Nat) : State :=
  { regs [(1#4, v1)] with keypad := ks.foldl (fun v k => v.setIfInBounds k true) start.keypad }

theorem test_skp : look 0xE19E#16 (keys 5#8 [5]) State.pc = some 0x204#16 := by decide
theorem test_skp_bad_key : faultOf 0xE19E#16 (keys 0x10#8 [])
    = some (some { kind := .badKeyIndex, pc := 0x200#16, word := some 0xE19E#16, info := .key 16#8 }) := by decide
theorem test_sknp : look 0xE1A1#16 (keys 5#8 []) State.pc = some 0x204#16 := by decide
theorem test_sknp_pressed : look 0xE1A1#16 (keys 5#8 [5]) State.pc = some 0x202#16 := by decide
theorem test_ldVDt : look 0xF307#16 { start with DT := 0x3C#8 } (fun t => (t.reg 3#4, t.DT)) = some (0x3C#8, 0x3C#8) := by decide
theorem test_ldVK_waits : look 0xF50A#16 (keys 0#8 []) (fun t => (t.pc, t.reg 5#4, t.opcode)) = some (0x200#16, 0#8, 0xF50A#16) := by
  decide
theorem test_ldVK_lowest : look 0xF50A#16 (keys 0#8 [9, 3]) (fun t => (t.pc, t.reg 5#4)) = some (0x202#16, 3#8) := by decide
theorem test_ldDtV : look 0xF315#16 (regs [(3#4, 0x3C#8)]) (fun t => (t.DT, t.ST)) = some (0x3C#8, 0#8) := by decide
theorem test_ldStV : look 0xF218#16 (regs [(2#4, 2#8)]) (fun t => (t.ST, t.soundTimer, t.tone, t.DT)) = some (2#8, 2#8, true, 0#8) := by
  decide

/-! ## Host operations (V7, V8) -/

theorem test_tick_timers : (let t := { start with DT := 1#8, ST := 2#8 }.tickTimers; (t.DT, t.ST, t.tickTimers.DT, t.tickTimers.ST))
    = (0#8, 1#8, 0#8, 0#8) := by decide
theorem test_set_key : (start.setKey 3 true).map (fun t => (t.keypad[3], t.keypad[4])) = some (true, false)
    ∧ start.setKey 16 true = none := by decide
theorem test_pixel : { start with video := Video.toggle Video.dark 63 31 }.pixel 63 31 = some true
    ∧ start.pixel 0 0 = some false ∧ start.pixel 64 0 = none ∧ start.pixel 0 32 = none := by decide
theorem test_dump : { start with I := 0x123#16, sp := 1#8, DT := 2#8, ST := 3#8, opcode := 0xA123#16 }.dump
    = { V := Vector.replicate 16 0#8, I := 0x123#16, pc := 0x200#16, sp := 1#8, DT := 2#8, ST := 3#8, opcode := 0xA123#16 } := by decide

/-- V8.5: a second load leaves registers, timers and the bytes it does not cover. -/
theorem test_load_again :
    (let s := ((State.reset.load [0x12#8, 0x00#8]).1.setReg 1#4 7#8).setDT 9#8
     let t := s.load [0x60#8]
     (t.2, t.1.readByte 0x200, t.1.readByte 0x201, t.1.pc, t.1.reg 1#4, t.1.DT))
      = (.ok, 0x60#8, 0#8, 0x200#16, 7#8, 9#8) := by decide

/-- V8.4: one byte too many. -/
theorem test_load_too_long : State.reset.load (List.replicate 3585 1#8) = (State.reset, .outOfSpace 3585) := by
  rw [State.load, List.length_replicate, if_neg (by decide)]

/-- V8.1: the glyph "0", and the bytes beside the font. -/
theorem test_construct_memory :
    [0x04F, 0x050, 0x051, 0x052, 0x053, 0x054, 0x0A0].map State.reset.readByte
      = [0#8, 0xF0#8, 0x90#8, 0x90#8, 0x90#8, 0xF0#8, 0#8] := by decide

/-- R9, R261: another FONT lands at 0x050, and the default one gives State.reset's memory. -/
theorem test_construct_other_font :
    (let t := start.construct ((Vector.replicate 80 0x11#8).set 79 0x22#8)
     [0x04F, 0x050, 0x09E, 0x09F, 0x0A0].map t.readByte) = [0#8, 0x11#8, 0x11#8, 0x22#8, 0#8]
      ∧ start.construct = State.reset := by decide

/-- R275: an infinite schedule of ticks (W9's floor). -/
theorem test_infinite_schedule :
    (match runInfinite { policy := .halt } (fun _ => .tickTimers) { start with DT := 1#8 } 2 with
      | .next t => some t.DT
      | .fault _ => none
      | .refused _ => none) = some 0#8 := by decide

/-- R90: what the host gets back from a step that completes, and from one that faults. -/
theorem test_step_result : (let s := put 0x6A5C#16 start; (stepped .halt s).map (stepResult s)) = some .ok
    ∧ (let s := put 0x00EE#16 start; (stepped .halt s).map (stepResult s))
      = some (.halted (some { kind := .stackUnderflow, pc := 0x200#16, word := some 0x00EE#16, info := .none })) := by decide

/-- R230: the numeric codes. -/
theorem test_codes : [FaultKind.outOfBounds, .stackOverflow, .stackUnderflow, .unknownOpcode, .dataOutOfBounds, .badKeyIndex].map faultCode
    = [1, 2, 3, 4, 5, 6] ∧ loadErrorCode = 16 := by decide

/-! ## Witnesses: for each statement with hypotheses, a state and operands that meet them -/

/-- A machine that has halted. -/
def halted : State := start.fatal .outOfBounds none .none

/-- What `exec` answers, where it is a next state. -/
def execd (i : Instr) (s : State) : State :=
  match exec i s with
  | .next t => t
  | .fault _ => s
  | .refused _ => s

/-- The hypotheses of StepRunsTheDecodedInstruction and OpcodeHoldsTheFetchedWord at the last legal fetch. -/
theorem witness_step : (let s := { start with pc := 4094#16 }.writeBytes 4094 [0x60#8, 0x07#8]
    s.run = .running ∧ s.pc.toNat + 1 < 4096
      ∧ decodeBytes [s.readByte s.pc.toNat, s.readByte (s.pc.toNat + 1)] = .instr (.ldK 0#4 7#8) []
      ∧ (stepped .skip s).isSome = true) := by decide

theorem witness_halted_step : halted.run = .haltedError := by decide

theorem witness_fetch_beyond : { start with pc := 4095#16 }.run = .running ∧ 4095 ≤ ({ start with pc := 4095#16 }).pc.toNat := by decide

theorem witness_unknown : (let s := put 0x5121#16 start
    s.run = .running ∧ s.pc.toNat + 1 < 4096
      ∧ decodeBytes [s.readByte s.pc.toNat, s.readByte (s.pc.toNat + 1)] = .unknown 0x5121#16 []) := by decide

/-- Encoding statements: each format at its greatest operands; an unknown word; too few bytes. -/
theorem witness_encoding : (Instr.drw 15#4 15#4 15#4).wellFormed = true ∧ (Instr.jp 4095#12).wellFormed = true
    ∧ (Instr.rnd 15#4 255#8).wellFormed = true ∧ (Instr.shl 15#4 15#4).wellFormed = true ∧ (Instr.ldRegs 15#4).wellFormed = true
    ∧ decode 0xDFFF#16 = .instr (.drw 15#4 15#4 15#4) ∧ decode 0xF000#16 = .unknown 0xF000#16 ∧ [0x12#8].length < 2 := by decide

/-- A running machine whose instruction completes (JP) and one whose instruction halts it (RET at sp = 0): ExecuteFaultsArePrecise,
OnlyTheListedInstructionsWriteEachState, OnlyKeyInstructionsReadTheKeypad. -/
theorem witness_exec : start.run = .running ∧ exec (.jp 4095#12) start = .next (execd (.jp 4095#12) start)
    ∧ exec .ret start = .next (execd .ret start) ∧ (execd .ret start).run = .haltedError := ⟨rfl, rfl, rfl, rfl⟩

/-- InstructionsHaltExactlyOnTheirFaultCondition: sp at both ends, where CALL and RET fault, and each other condition at its boundary. -/
theorem witness_fault_conditions : start.run = .running ∧ ({ start with sp := 16#8 } : State).sp.toNat ≤ 16
    ∧ (execd (.call 0#12) { start with sp := 16#8 }).run = .haltedError ∧ (execd (.call 0#12) { start with sp := 15#8 }).run = .running
    ∧ (execd .ret start).run = .haltedError ∧ (execd .ret { start with sp := 1#8 }).run = .running
    ∧ (execd (.skp 1#4) (keys 16#8 [])).run = .haltedError ∧ (execd (.sknp 1#4) (keys 15#8 [])).run = .running
    ∧ (execd (.drw 0#4 0#4 2#4) { start with I := 4095#16 }).run = .haltedError
    ∧ (execd (.drw 0#4 0#4 0#4) { start with I := 65535#16 }).run = .running := by decide

/-- SuccessorPcIsThatOfTheTable at the greatest pc of a fetch, through a skip, a return and a wait. -/
theorem witness_successor : (let s := { start with pc := 4094#16, sp := 16#8 }
    s.run = .running ∧ s.pc.toNat ≤ 4094 ∧ (execd (.seK 0#4 0#8) s).run = .running ∧ (execd (.seK 0#4 0#8) s).pc.toNat = 4098
      ∧ (execd .ret s).run = .running ∧ runs .ret s = true ∧ (execd (.ldVK 0#4) s).pc.toNat = 4094) := by decide

/-- OnlyFlagInstructionsWriteVF: a carry changes VF. -/
theorem witness_vf : (let s := regs [(1#4, 255#8), (2#4, 1#8)]
    runs (.addV 1#4 2#4) s = true ∧ (execd (.addV 1#4 2#4) s).reg VF ≠ s.reg VF) := by decide

/-- DrawXorsTheSprite and DrawTwiceRestoresTheDisplay: a sprite that ends at the last byte of memory, and one of no rows. Drawn on a dark
display the first collides with nothing, on a lit one it does. -/
theorem witness_draw : (let s := { start with I := 4095#16 }.writeBytes 4095 [0x80#8]
    (s.I.toNat + (1#4).toNat ≤ 4096) ∧ (1#4 : Reg) ≠ VF ∧ (execd (.drw 1#4 2#4 1#4) s).reg VF = 0#8
      ∧ (execd (.drw 1#4 2#4 1#4) (execd (.drw 1#4 2#4 1#4) s)).reg VF = 1#8
      ∧ (execd (.drw 1#4 2#4 1#4) s).I = s.I ∧ (execd (.drw 1#4 2#4 1#4) s).reg 1#4 = s.reg 1#4
      ∧ (execd (.drw 1#4 2#4 1#4) s).reg 2#4 = s.reg 2#4) := by decide
theorem witness_draw_nothing : (let s := { start with I := 65535#16 }
    (s.I.toNat + (0#4).toNat ≤ 4096 ∨ (0#4 : Nibble) = 0#4) ∧ runs (.drw 1#4 2#4 0#4) s = true) := by decide
theorem witness_draw_row (s : State) :
    (∀ k, k < (1#4).toNat → (execd (.drw 1#4 2#4 1#4) s).readByte (s.I.toNat + k) = s.readByte (s.I.toNat + k)) := by
  intro k _
  simp only [execd, exec, execDrw, State.withData]
  split <;> rename_i h <;> split at h <;> cases h <;> rfl

/-- SecondDrawAlwaysCollides: two draws over cells that were all set. -/
theorem witness_draw_over_set : (let s : State := { start with I := 0x50#16, video := Vector.replicate 64 (Vector.replicate 32 true) }
    (0#4 : Reg) ≠ VF ∧ s.I.toNat + (1#4).toNat ≤ 4096 ∧ runs (.drw 0#4 0#4 1#4) s = true
      ∧ runs (.drw 0#4 0#4 1#4) (execd (.drw 0#4 0#4 1#4) s) = true) := by decide

/-- CALL and RET clauses at both ends of the stack: sp = 0, 1, 15, 16; above it for ReturnStopsOnlyOutsideTheStack. -/
theorem witness_stack : (0#8).toNat = (0 : Fin 16).val ∧ (15#8).toNat = (15 : Fin 16).val ∧ 16 ≤ (16#8).toNat
    ∧ (1#8).toNat = (0 : Fin 16).val + 1 ∧ (16#8).toNat = (15 : Fin 16).val + 1
    ∧ runs (.call 0#12) start = true ∧ runs .ret { start with sp := 16#8 } = true ∧ runs .ret { start with sp := 17#8 } = false := by decide

/-- CallThenReturnComesBack at the deepest call. -/
theorem witness_call_return : (let s := (put 0x2300#16 { start with sp := 15#8 }).writeBytes 0x300 [0x00#8, 0xEE#8]
    s.run = .running ∧ s.pc.toNat + 1 < 4096
      ∧ decodeBytes [s.readByte s.pc.toNat, s.readByte (s.pc.toNat + 1)] = .instr (.call 0x300#12) []
      ∧ s.sp.toNat < 16 ∧ (0x300#12).toNat + 1 < 4096 ∧ s.readByte (0x300#12).toNat = 0x00#8
      ∧ s.readByte ((0x300#12).toNat + 1) = 0xEE#8) := by decide

/-- SelfJumpIsAFixedPoint, the second clause's hypothesis too. -/
theorem witness_self_jump : (let s := { put 0x1200#16 start with opcode := 0x1200#16 }
    s.run = .running ∧ s.pc.toNat + 1 < 4096 ∧ s.pc.toNat = (0x200#12).toNat
      ∧ decodeBytes [s.readByte s.pc.toNat, s.readByte (s.pc.toNat + 1)] = .instr (.jp 0x200#12) []
      ∧ s.opcode = encode (.jp 0x200#12)) := by decide

/-- The flag clauses' hypothesis: x is not VF. -/
theorem witness_not_vf : (14#4 : Reg) ≠ VF := by decide

/-- The memory instructions at the last address they may reach, and one above it. -/
theorem witness_data_bounds : 4093 + 2 < 4096 ∧ 4096 ≤ 4094 + 2 ∧ 4080 + (15#4).toNat < 4096 ∧ 4095 + (0#4).toNat < 4096
    ∧ 4096 ≤ 4081 + (15#4).toNat ∧ (2#4 : Nibble) ≠ 0#4 ∧ 4096 < 4095 + (2#4).toNat
    ∧ runs (.ldB 0#4) { start with I := 4093#16 } = true ∧ runs (.ldB 0#4) { start with I := 4094#16 } = true
    ∧ runs (.stRegs 15#4) { start with I := 4080#16 } = true ∧ runs (.ldRegs 15#4) { start with I := 4081#16 } = true
    ∧ runs (.drw 0#4 0#4 2#4) { start with I := 4095#16 } = true := by decide

/-- StoreThenLoadRestoresRegisters: the state after the store serves as the state in between. -/
theorem witness_store_load : (let s := { start with I := 4080#16 }
    s.I.toNat + (15#4).toNat < 4096 ∧ (execd (.stRegs 15#4) s).I = s.I) := by decide

/-- StoreIsSeenByTheNextFetch: V5.18. -/
theorem witness_store_fetch : (let s := { start with I := 0x202#16 }
    s.I.toNat + (1#4).toNat < 4096 ∧ (1#4).toNat = (0#4).toNat + 1 ∧ (1#4).toNat ≤ (1#4).toNat
      ∧ (s.pc + 2#16).toNat = s.I.toNat + (0#4).toNat) := by decide

/-- Keys: V[x] = 15 pressed and released, V[x] = 16, 255; only key 15 pressed, and none. -/
theorem witness_keys : ((keys 15#8 [15]).reg 1#4).toNat = (15 : Fin 16).val ∧ (keys 15#8 [15]).keypad[15] = true
    ∧ (keys 15#8 []).keypad[15] = false ∧ 16 ≤ ((keys 16#8 []).reg 1#4).toNat ∧ 16 ≤ ((keys 255#8 []).reg 1#4).toNat
    ∧ (∀ j : Fin 16, j.val < 15 → (keys 0#8 [15]).keypad[j.val] = false) ∧ (∀ k : Fin 16, (keys 0#8 []).keypad[k.val] = false) := by decide

/-- StepsMoveTimersOnlyByFx15AndFx18 and EveryStepKeepsTheInvariant: steps that answer a next state, from states with the invariant. -/
theorem witness_invariant_step : (put 0xF315#16 (regs [(3#4, 5#8)])).Inv ∧ (stepped .halt (put 0xF315#16 (regs [(3#4, 5#8)]))).isSome = true
    ∧ halted.Inv ∧ (stepped .skip halted).isSome = true ∧ State.reset.Inv := by decide

/-- Ports: the last key and the first that is none; the last cell and the first beyond each edge. -/
theorem witness_ports : (15 < 16) ∧ (16 ≤ 16) ∧ (63 < 64 ∧ 31 < 32) ∧ (64 ≤ 64 ∨ 32 ≤ 0) ∧ (64 ≤ 0 ∨ 32 ≤ 32) := by decide

/-- Loads: the longest that fits, and one byte more. -/
theorem witness_load : 0x200 + (List.replicate 3584 0x5A#8).length ≤ 4096 ∧ 4096 < 0x200 + (List.replicate 3585 0x5A#8).length := by
  rw [List.length_replicate, List.length_replicate]; decide

/-- ExecutedStepReturnsOkOrHalted: an instruction that completes, and one that faults. -/
theorem witness_step_result : (let s := put 0x6A5C#16 start
    s.run = .running ∧ s.pc.toNat + 1 < 4096 ∧ decodeBytes [s.readByte s.pc.toNat, s.readByte (s.pc.toNat + 1)] = .instr (.ldK 0xA#4 0x5C#8) []
      ∧ runs (.ldK 0xA#4 0x5C#8) { s with opcode := 0x6A5C#16 } = true
      ∧ (execd (.ldK 0xA#4 0x5C#8) { s with opcode := 0x6A5C#16 }).run = .running) ∧
    (let s := put 0x00EE#16 start
    s.run = .running ∧ s.pc.toNat + 1 < 4096 ∧ decodeBytes [s.readByte s.pc.toNat, s.readByte (s.pc.toNat + 1)] = .instr .ret []
      ∧ runs .ret { s with opcode := 0x00EE#16 } = true ∧ (execd .ret { s with opcode := 0x00EE#16 }).run = .haltedError) := by decide

/-- EverySchedulePreservesTheInvariant: a machine with the invariant, and an infinite schedule's run from it. -/
theorem witness_infinite : State.reset.Inv ∧
    runInfinite { policy := .skip } (fun n => if n % 2 = 0 then .step else .tickTimers) State.reset 0 = .next State.reset :=
  ⟨by decide, rfl⟩

/-- Font and non-font addresses at the edges. -/
theorem witness_font : (15 < 16 ∧ 4 < 5) ∧ ¬ (0x050 ≤ 0x04F ∧ 0x04F < 0x0A0) ∧ ¬ (0x050 ≤ 0x0A0 ∧ 0x0A0 < 0x0A0) := by decide

/-- EqualMemoriesAreEqualData: a memory in the canonical form. -/
theorem witness_memory : Memory.wf [(0x200, 1#8), (0x201, 2#8)] := by decide

end Sys2Proof.Tests
end

/-! # Proofs: the scope of the block (00_scope R7, R9): construct, load and schedules -/

namespace Sys2Proof

/-! ## Unknown words -/

theorem unknown_of_decodeFamily0 {w u : Word} (h : decodeFamily0 w = .unknown u) : u = w := by
  unfold decodeFamily0 at h
  split at h
  · cases h
  · split at h <;> cases h
    rfl

theorem unknown_of_decodeFamily8 {w u : Word} (h : decodeFamily8 w = .unknown u) : u = w := by
  unfold decodeFamily8 at h
  split at h <;> cases h
  rfl

theorem unknown_of_decodeFamilyE {w u : Word} (h : decodeFamilyE w = .unknown u) : u = w := by
  unfold decodeFamilyE at h
  split at h <;> cases h
  rfl

theorem unknown_of_decodeFamilyF {w u : Word} (h : decodeFamilyF w = .unknown u) : u = w := by
  unfold decodeFamilyF at h
  split at h <;> cases h
  rfl

/-- Families 5 and 9: the row of R75, or unknown. -/
theorem unknown_of_ite {c : Prop} [Decidable c] {i : Instr} {w u : Word}
    (h : (if c then .instr i else .unknown w : Decoded) = .unknown u) : u = w := by
  split at h <;> cases h
  rfl

/-- The word an unknown decode reports is the word decoded (30_encoding R77). -/
theorem unknown_of_decode {w u : Word} (h : decode w = .unknown u) : u = w := by
  unfold decode at h
  split at h
  case h_1 => exact unknown_of_decodeFamily0 h
  case h_6 | h_10 => exact unknown_of_ite h
  case h_9 => exact unknown_of_decodeFamily8 h
  case h_15 => exact unknown_of_decodeFamilyE h
  case h_16 => exact unknown_of_decodeFamilyF h
  all_goals cases h

end Sys2Proof

namespace Sys2Proof.Machine

/-! ## The invariant under each state operation

A law with no premise but the invariant is about an operation that writes no field the invariant reads, so that it holds by unfolding
the operation. -/

section Operations

variable {s : State}

theorem State.Inv.setReg (hs : s.Inv) {r : Reg} {v : Byte} : (s.setReg r v).Inv := hs
theorem State.Inv.setI (hs : s.Inv) {a : Word} : (s.setI a).Inv := hs
theorem State.Inv.setDT (hs : s.Inv) {v : Byte} : (s.setDT v).Inv := hs
theorem State.Inv.setST (hs : s.Inv) {v : Byte} : (s.setST v).Inv := hs
theorem State.Inv.setVideo (hs : s.Inv) {v : Video} : (s.setVideo v).Inv := hs
theorem State.Inv.setOpcode (hs : s.Inv) {w : Word} : (s.setOpcode w).Inv := hs
theorem State.Inv.loadRegs (hs : s.Inv) {x : Reg} : (s.loadRegs x).Inv := hs
theorem State.Inv.drawSprite (hs : s.Inv) {x0 y0 : Byte} {rows : List Byte} : (s.drawSprite x0 y0 rows).Inv := hs
theorem State.Inv.tickTimers (hs : s.Inv) : s.tickTimers.Inv := hs
theorem State.Inv.withDraws (hs : s.Inv) {n : Nat} : State.Inv { s with draws := n } := hs
theorem State.Inv.withKeypad (hs : s.Inv) {keys : Vector Bool 16} : State.Inv { s with keypad := keys } := hs

theorem State.Inv.setPc (hs : s.Inv) {a : Word} (ha : a.toNat ≤ 0x10FE) : (s.setPc a).Inv := by
  obtain ⟨hmem, hsp, -, hstack, hrun, hfault⟩ := hs
  exact ⟨hmem, hsp, ha, hstack, hrun, hfault⟩

theorem State.Inv.advance (hs : s.Inv) (hp : s.pc.toNat + 1 < 4096) : s.advance.Inv :=
  hs.setPc (by bv_omega)

theorem State.Inv.skipIf (hs : s.Inv) (hp : s.pc.toNat + 1 < 4096) {taken : Bool} : (s.skipIf taken).Inv :=
  hs.setPc (by cases taken <;> simp <;> omega)

theorem State.Inv.writeBytes (hs : s.Inv) {a : Nat} {bs : List Byte} (ha : a + bs.length ≤ 4096) : (s.writeBytes a bs).Inv := by
  obtain ⟨hmem, hrest⟩ := hs
  exact ⟨Memory.wf_writeBytes hmem a bs ha, hrest⟩

theorem State.Inv.push (hs : s.Inv) {v : Word} (hfree : s.sp.toNat < 16) (hv : v.toNat ≤ 0x1000) : (s.push v).Inv := by
  obtain ⟨hmem, -, hpc, hstack, hrun, hfault⟩ := hs
  refine ⟨hmem, ?_, hpc, fun j => ?_, hrun, hfault⟩
  · simp only [State.push_sp]
    bv_omega
  · simp only [State.push_stack, Vector.getElem_setIfInBounds]
    split
    · exact hv
    · exact hstack j

theorem State.Inv.drop (hs : s.Inv) (h0 : s.sp ≠ 0#8) : s.drop.Inv := by
  obtain ⟨hmem, hsp, hrest⟩ := hs
  refine ⟨hmem, ?_, hrest⟩
  have := BitVec.toNat_ne_iff_ne.2 h0
  rw [State.drop_sp]
  bv_omega

/-- With sp in 0..16 the entry a return pops exists, and it is at most the largest return address. -/
theorem State.Inv.exists_top (hs : s.Inv) : ∃ target, s.top = some target ∧ target.toNat ≤ 0x1000 := by
  obtain ⟨-, hsp, -, hstack, -, -⟩ := hs
  have hj : s.sp.toNat - 1 < 16 := by omega
  exact ⟨s.stack[s.sp.toNat - 1], Vector.getElem?_eq_getElem hj, hstack ⟨_, hj⟩⟩

/-- Entry into a fault with a sound record. -/
theorem State.Inv.fatal (hs : s.Inv) {kind : FaultKind} {word : Option Word} {info : FaultInfo}
    (hsound : FaultRecord.sound { kind := kind, pc := s.pc, word := word, info := info } = true) :
    (s.fatal kind word info).Inv := by
  obtain ⟨hmem, hsp, hpc, hstack, -, -⟩ := hs
  exact ⟨hmem, hsp, hpc, hstack, by simp, by simpa using hsound⟩

/-- A fault of the execute phase, of a kind the instruction in `opcode` can raise. -/
theorem State.Inv.raise (hs : s.Inv) {kind : FaultKind} {info : FaultInfo} (hkind : raisedBy kind (decode s.opcode) = true)
    (hinfo : infoFits kind info = true) : (s.raise kind info).Inv :=
  hs.fatal (by simp [FaultRecord.sound, hkind, hinfo])

theorem State.Inv.unknownOpcode (hs : s.Inv) (hp : s.pc.toNat + 1 < 4096) (policy : UnknownOpcodePolicy) {w u : Word}
    (hd : decode w = .unknown u) : (s.unknownOpcode policy u).Inv := by
  cases policy with
  | halt =>
    rw [← unknown_of_decode hd] at hd
    exact hs.fatal (by simp [FaultRecord.sound, infoFits, raisedBy, hd])
  | skip => exact hs.advance hp

end Operations

/-! ## Answers with the invariant -/

/-- The outcome is a next state, and that state has the invariant. -/
def AnswersInv (o : Host.Outcome State Fault Refusal) : Prop := ∃ t, o = .next t ∧ t.Inv

theorem State.Inv.answers {t : State} (ht : t.Inv) : AnswersInv (.next t) := ⟨t, rfl, ht⟩

section Execute

variable {s : State}

theorem answersInv_advance (hs : s.Inv) (hp : s.pc.toNat + 1 < 4096) : AnswersInv (.next s.advance) := (hs.advance hp).answers

theorem answersInv_result (hs : s.Inv) (hp : s.pc.toNat + 1 < 4096) {x : Reg} {v : Byte} : AnswersInv (s.result x v) :=
  answersInv_advance hs.setReg hp

theorem answersInv_withData (hs : s.Inv) {count : Nat} {done : State}
    (hkind : raisedBy .dataOutOfBounds (decode s.opcode) = true)
    (hdone : s.I.toNat + count ≤ 4096 ∨ count = 0 → done.Inv) : AnswersInv (s.withData count done) := by
  by_cases hc : s.I.toNat + count ≤ 4096 ∨ count = 0
  · rw [State.withData_ok s done hc]
    exact (hdone hc).answers
  · rw [State.withData_bad s done (by omega) (by omega)]
    exact (hs.raise hkind (by simp [infoFits])).answers

theorem answersInv_skipOnKey (hs : s.Inv) (hp : s.pc.toNat + 1 < 4096) {x : Reg} {pressed : Bool}
    (hkind : raisedBy .badKeyIndex (decode s.opcode) = true) : AnswersInv (s.skipOnKey x pressed) := by
  unfold State.skipOnKey
  rcases Nat.lt_or_ge (s.reg x).toNat 16 with hk | hk
  · rw [State.key_of_lt s hk]
    exact (hs.skipIf hp).answers
  · rw [State.key_of_ge s hk]
    exact (hs.raise hkind (by simpa [infoFits] using hk)).answers

theorem answersInv_execRet (hs : s.Inv) (hkind : raisedBy .stackUnderflow (decode s.opcode) = true) :
    AnswersInv (execRet s) := by
  unfold execRet
  by_cases h0 : s.sp = 0#8
  · rw [if_pos h0]
    exact (hs.raise hkind rfl).answers
  · obtain ⟨target, htop, htarget⟩ := hs.exists_top
    rw [if_neg h0, htop]
    exact ((hs.drop h0).setPc (by omega)).answers

theorem answersInv_execCall (hs : s.Inv) (hp : s.pc.toNat + 1 < 4096) {nnn : Addr12}
    (hkind : raisedBy .stackOverflow (decode s.opcode) = true) : AnswersInv (execCall nnn s) := by
  unfold execCall
  split
  · exact (hs.raise hkind rfl).answers
  · have hpush : (s.push (s.pc + 2#16)).Inv := hs.push (by omega) (by bv_omega)
    exact (hpush.setPc (by rw [zext16_toNat]; omega)).answers

theorem answersInv_execJpV0 (hs : s.Inv) {nnn : Addr12} : AnswersInv (execJpV0 nnn s) := by
  have hsum : (zext16 nnn + zextByte (s.reg 0#4)).toNat ≤ 0x10FE := by
    rw [BitVec.toNat_add, zext16_toNat, zextByte_toNat]
    omega
  exact (hs.setPc hsum).answers

theorem answersInv_execLdVK (hs : s.Inv) (hp : s.pc.toNat + 1 < 4096) {x : Reg} : AnswersInv (execLdVK x s) := by
  unfold execLdVK
  split
  · exact answersInv_advance hs.setReg hp
  · exact hs.answers

/-- Every instruction fetched at a legal pc answers, with the invariant. The fetched word is in `opcode` (40_cycle R92). -/
theorem answersInv_exec (hs : s.Inv) (hp : s.pc.toNat + 1 < 4096) {i : Instr} (hd : decode s.opcode = .instr i) :
    AnswersInv (exec i s) := by
  have hkind {kind : FaultKind} (h : raisedBy kind (.instr i) = true) : raisedBy kind (decode s.opcode) = true := hd ▸ h
  cases i with
  | cls => exact answersInv_advance hs.setVideo hp
  | ret => exact answersInv_execRet hs (hkind rfl)
  | jp nnn => exact (hs.setPc (by rw [zext16_toNat]; omega)).answers
  | call nnn => exact answersInv_execCall hs hp (hkind rfl)
  | seK | sneK | seV | sneV => exact (hs.skipIf hp).answers
  | ldK | addK | ldV | orV | andV | xorV => exact answersInv_result hs hp
  | addV | subV | shr | subn | shl => exact answersInv_result hs.setReg hp
  | ldI | addI | ldF => exact answersInv_advance hs.setI hp
  | jpV0 nnn => exact answersInv_execJpV0 hs
  | rnd => exact answersInv_result (hs.withDraws (n := s.draws + 1)) hp
  | drw => exact answersInv_withData hs (hkind rfl) fun _ => hs.drawSprite.advance hp
  | skp | sknp => exact answersInv_skipOnKey hs hp (hkind rfl)
  | ldVDt => exact answersInv_advance hs.setReg hp
  | ldVK => exact answersInv_execLdVK hs hp
  | ldDtV => exact answersInv_advance hs.setDT hp
  | ldStV => exact answersInv_advance hs.setST hp
  | ldB x => exact answersInv_withData hs (hkind rfl) fun hI => (hs.writeBytes (by simp [decimalDigits]; omega)).advance hp
  | stRegs x =>
    exact answersInv_withData hs (hkind rfl) fun hI => (hs.writeBytes (by rw [State.length_regsUpTo]; omega)).advance hp
  | ldRegs => exact answersInv_withData hs (hkind rfl) fun _ => hs.loadRegs.advance hp

/-- A word fetched at a legal pc, once `opcode` holds it. -/
theorem answersInv_runWord (hs : s.Inv) (hp : s.pc.toNat + 1 < 4096) (policy : UnknownOpcodePolicy) (w : Word) :
    AnswersInv ((s.setOpcode w).runWord policy w) := by
  have hs' : (s.setOpcode w).Inv := hs.setOpcode
  unfold State.runWord
  split
  · rename_i i hd
    exact answersInv_exec hs' hp hd
  · rename_i u hd
    exact (hs'.unknownOpcode hp policy hd).answers

/-- Every step from a state with the invariant answers, with the invariant (10_state R25, R30; 40_cycle R91 to R98). -/
theorem answersInv_cycle (hs : s.Inv) (policy : UnknownOpcodePolicy) : AnswersInv (cycle policy s) := by
  unfold cycle
  split
  · exact hs.answers
  · rcases Nat.lt_or_ge (s.pc.toNat + 1) 4096 with hp | hp
    · simp only [State.runStep, State.fetch_of_lt hp]
      exact answersInv_runWord hs hp policy _
    · simp only [State.runStep, State.fetch_of_ge (show 4095 ≤ s.pc.toNat by omega)]
      exact (hs.fatal rfl).answers

end Execute

/-! ## Host operations (00_scope R7) -/

section HostOperations

variable {s : State}

theorem State.inv_construct (s : State) (font : Font) : (s.construct font).Inv :=
  ⟨s.wf_construct font, by simp [State.construct, State.reset]⟩

theorem State.load_of_le (s : State) {bytes : List Byte} (h : 0x200 + bytes.length ≤ 4096) :
    s.load bytes = ((s.writeBytes 0x200 bytes).setPc 0x200#16, .ok) := if_pos h

theorem State.load_of_gt (s : State) {bytes : List Byte} (h : 4096 < 0x200 + bytes.length) :
    s.load bytes = (s, .outOfSpace bytes.length) := if_neg (Nat.not_le.2 h)

theorem State.Inv.load (hs : s.Inv) (bytes : List Byte) : (s.load bytes).1.Inv := by
  rcases Nat.lt_or_ge 4096 (0x200 + bytes.length) with h | h
  · rw [State.load_of_gt s h]
    exact hs
  · rw [State.load_of_le s h]
    exact (hs.writeBytes h).setPc (by decide)

theorem inv_performSetKey (hs : s.Inv) (k : Nat) (pressed : Bool) : (performSetKey k pressed s).1.Inv := by
  unfold performSetKey State.setKey
  by_cases hk : k < 16
  · rw [if_pos hk]
    exact hs.withKeypad
  · rw [if_neg hk]
    exact hs

/-- `pixel` reads only. -/
theorem performPixel_state (x y : Nat) (s : State) : (performPixel x y s).1 = s := by
  unfold performPixel
  split <;> rfl

/-- Every operation of the host answers, with the invariant. -/
theorem perform_inv (hs : s.Inv) (session : Session) (op : HostOp) : ∃ t r, perform session op s = .next (t, r) ∧ t.Inv := by
  cases op with
  | construct => exact ⟨_, _, rfl, s.inv_construct session.font⟩
  | load bytes => exact ⟨_, _, rfl, hs.load bytes⟩
  | step =>
    obtain ⟨t, hstep, ht⟩ := answersInv_cycle hs session.policy
    exact ⟨t, .stepped (stepResult s t), by simp only [perform, performStep, hstep], ht⟩
  | tickTimers => exact ⟨_, _, rfl, hs.tickTimers⟩
  | setKey k pressed => exact ⟨_, _, rfl, inv_performSetKey hs k pressed⟩
  | pixel x y => exact ⟨_, _, rfl, (performPixel_state x y s).symm ▸ hs⟩
  | soundTimer | dump => exact ⟨s, _, rfl, hs⟩

/-- Every finite schedule answers, with the invariant. -/
theorem answersInv_runSchedule (hs : s.Inv) (session : Session) (ops : List HostOp) :
    AnswersInv (runSchedule session ops s) := by
  induction ops generalizing s with
  | nil => exact hs.answers
  | cons op rest ih =>
    obtain ⟨t, r, hop, ht⟩ := perform_inv hs session op
    rw [runSchedule_cons hop]
    exact ih ht

/-- An infinite schedule is after n operations where its first n operations end, and there it has the invariant. -/
theorem runInfinite_inv (hs : s.Inv) (session : Session) (ops : InfiniteSchedule) (n : Nat) :
    ∃ t, runInfinite session ops s n = .next t ∧ runSchedule session ((List.range n).map ops) s = .next t ∧ t.Inv := by
  induction n with
  | zero => exact ⟨s, rfl, rfl, hs⟩
  | succ n ih =>
    obtain ⟨t, hinf, hfin, ht⟩ := ih
    obtain ⟨t', hlast, ht'⟩ := answersInv_runSchedule ht session [ops n]
    refine ⟨t', ?_, ?_, ht'⟩
    · rw [runInfinite_succ hinf, hlast]
    · rw [List.range_succ, List.map_append, List.map_singleton, runSchedule_append hfin, hlast]

end HostOperations

theorem State.inv_reset : State.reset.Inv := by decide

/-- Settles O57: every host operation answers with the invariant, and a schedule is run operation by operation. -/
theorem everySchedulePreservesTheInvariant : Obligations.EverySchedulePreservesTheInvariant := fun session =>
  ⟨fun ops _ hs => answersInv_runSchedule hs session ops, fun ops _ hs n => runInfinite_inv hs session ops n,
    fun ops => answersInv_runSchedule State.inv_reset session ops⟩

/-! ## Runs of bytes in memory -/

/-- What `writeBytes` wrote reads back. -/
theorem State.getElem?_readByte_writeBytes (s : State) (a : Nat) {bs : List Byte} {k : Nat} (hk : k < bs.length) :
    bs[k]? = some ((s.writeBytes a bs).readByte (a + k)) := by
  rw [State.readByte_writeBytes, Memory.read_writeBytes, if_pos (by omega), Nat.add_sub_cancel_left,
    List.getD_eq_getElem _ _ hk, List.getElem?_eq_getElem hk]

theorem State.sameMemoryOutside_writeBytes (s : State) (a : Nat) (bs : List Byte) :
    SameMemoryOutside a bs.length s (s.writeBytes a bs) := fun b hb => by
  rw [State.readByte_writeBytes, Memory.read_writeBytes, if_neg hb, State.readByte]

/-- Settles O52: a load that fits is one `writeBytes`, which reads back inside the program and keeps the bytes outside it. -/
theorem loadPlacesTheProgram : Obligations.LoadPlacesTheProgram := by
  intro session s bytes
  refine ⟨rfl, fun hfits => ?_, s.load_of_gt⟩
  rw [s.load_of_le hfits]
  exact ⟨rfl, rfl, fun k hk => s.getElem?_readByte_writeBytes 0x200 hk, s.sameMemoryOutside_writeBytes 0x200 bytes, rfl⟩

/-! ## Construction (70_reset_and_hazards R260, R261) -/

theorem State.readByte_construct_font (s : State) (font : Font) (k : Fin 80) :
    (s.construct font).readByte (0x050 + k.val) = font[k.val] := by
  rw [State.readByte_construct, if_pos (by omega), Nat.add_sub_cancel_left, List.getD_eq_getElem _ _ (by simp),
    Vector.getElem_toList]

theorem State.readByte_construct_other (s : State) (font : Font) {a : Nat} (ha : ¬ (0x050 ≤ a ∧ a < 0x0A0)) :
    (s.construct font).readByte a = 0#8 := by
  rw [State.readByte_construct, if_neg ha]
  exact if_neg ha

/-- Settles O60: `State.construct` is State.reset with the font written to a blank memory. -/
theorem constructCopiesTheFont : Obligations.ConstructCopiesTheFont := fun session s =>
  ⟨s.construct session.font, rfl, rfl, rfl, s.readByte_construct_font session.font,
    fun _ => s.readByte_construct_other session.font, s.wf_construct session.font⟩

end Sys2Proof.Machine

/-! # Proofs: the state (10_state R20 to R37): the invariant, faults, successors and who writes what -/

namespace Sys2Proof

/-! ## Decoder and encoder are inverse (30_encoding R75, R76) -/

theorem decode_encode (i : Instr) : decode (encode i) = .instr i := by
  cases i with
  | cls | ret => rfl
  | jp | call | ldI | jpV0 => simp [encode, decode]
  | seK | sneK | ldK | addK | rnd => simp [encode, decode]
  | seV | sneV | drw => simp [encode, decode]
  | ldV | orV | andV | xorV | addV | subV | shr | subn | shl => simp [encode, decode, decodeFamily8]
  | skp | sknp => simp [encode, decode, decodeFamilyE]
  | ldVDt | ldVK | ldDtV | ldStV | addI | ldF | ldB | stRegs | ldRegs => simp [encode, decode, decodeFamilyF]

/-! A word is its fields laid out again, format by format (30_encoding R72). -/

theorem encodeNnn_fields (w : Word) : encodeNnn (opField w) (nnnField w) = w := by
  apply BitVec.eq_of_toNat_eq
  rw [encodeNnn_toNat, opField_toNat, nnnField_toNat]
  omega

theorem encodeXkk_fields (w : Word) : encodeXkk (opField w) (xField w) (kkField w) = w := by
  apply BitVec.eq_of_toNat_eq
  rw [encodeXkk_toNat, opField_toNat, xField_toNat, kkField_toNat]
  omega

theorem encodeXyn_fields (w : Word) : encodeXyn (opField w) (xField w) (yField w) (nField w) = w := by
  apply BitVec.eq_of_toNat_eq
  rw [encodeXyn_toNat, opField_toNat, xField_toNat, yField_toNat, nField_toNat]
  omega

theorem encode_of_decodeFamily0 {w : Word} {i : Instr} (h : decodeFamily0 w = .instr i) : encode i = w := by
  unfold decodeFamily0 at h
  split at h
  · cases h
    exact (‹w = 0x00E0#16›).symm
  · split at h <;> cases h
    exact (‹w = 0x00EE#16›).symm

theorem encode_of_decodeFamily8 {w : Word} {i : Instr} (hop : opField w = 0x8#4) (h : decodeFamily8 w = .instr i) : encode i = w := by
  have hw := encodeXyn_fields w
  unfold decodeFamily8 at h
  split at h <;> cases h <;> simpa only [encode, hop, ‹nField w = _›] using hw

theorem encode_of_decodeFamilyE {w : Word} {i : Instr} (hop : opField w = 0xE#4) (h : decodeFamilyE w = .instr i) : encode i = w := by
  have hw := encodeXkk_fields w
  unfold decodeFamilyE at h
  split at h <;> cases h <;> simpa only [encode, hop, ‹kkField w = _›] using hw

theorem encode_of_decodeFamilyF {w : Word} {i : Instr} (hop : opField w = 0xF#4) (h : decodeFamilyF w = .instr i) : encode i = w := by
  have hw := encodeXkk_fields w
  unfold decodeFamilyF at h
  split at h <;> cases h <;> simpa only [encode, hop, ‹kkField w = _›] using hw

/-- Families 5 and 9, whose low digit is fixed. -/
theorem encode_of_ite {w : Word} {i j : Instr} (hj : nField w = 0#4 → encode j = w)
    (h : (if nField w = 0#4 then .instr j else .unknown w : Decoded) = .instr i) : encode i = w := by
  split at h <;> cases h
  exact hj ‹_›

theorem encode_of_decode {w : Word} {i : Instr} (h : decode w = .instr i) : encode i = w := by
  have hnnn := encodeNnn_fields w
  have hxkk := encodeXkk_fields w
  have hxyn := encodeXyn_fields w
  unfold decode at h
  split at h <;> rename_i hop
  case h_1 => exact encode_of_decodeFamily0 h
  case h_6 | h_10 => exact encode_of_ite (fun hn => by simpa only [encode, hop, hn] using hxyn) h
  case h_9 => exact encode_of_decodeFamily8 hop h
  case h_15 => exact encode_of_decodeFamilyE hop h
  case h_16 =>
    have hF : opField w = 0xF#4 := by simp only [imp_false] at *; bv_omega
    exact encode_of_decodeFamilyF hF h
  all_goals cases h
  case h_2 | h_3 | h_11 | h_12 => simpa only [encode, hop] using hnnn
  case h_14 => simpa only [encode, hop] using hxyn
  all_goals simpa only [encode, hop] using hxkk

end Sys2Proof

namespace Sys2Proof.Machine

/-- The encoding line of an instruction's rule is the word its format spells. -/
theorem encodedAs_raw {i : Instr} (hform : Laws.WordForm.Statement i) : EncodedAs i i.raw.word := by
  obtain ⟨hword, -⟩ := hform
  intro w
  rw [← hword, BitVec.toNat_inj]
  exact ⟨fun hd => (encode_of_decode hd).symm, fun hw => hw ▸ decode_encode i⟩

/-! ## What a fault of the execute phase leaves -/

theorem State.haltedBy_raise (s : State) (kind : FaultKind) (info : FaultInfo) : HaltedBy kind info s (s.raise kind info) :=
  ⟨rfl, rfl, rfl, rfl, fun _ _ => rfl, rfl, ⟨rfl, rfl⟩, ⟨rfl, rfl⟩, rfl, fun _ _ => rfl, fun _ => rfl, rfl⟩

/-! ## Call and return by the stack pointer -/

section Stack

variable {s : State}

theorem execCall_of_lt (h : s.sp.toNat < 16) (nnn : Addr12) :
    execCall nnn s = .next ((s.push (s.pc + 2#16)).setPc (zext16 nnn)) := if_neg (Nat.not_le.2 h)

theorem execCall_of_ge (h : 16 ≤ s.sp.toNat) (nnn : Addr12) : execCall nnn s = .next (s.raise .stackOverflow .none) := if_pos h

theorem execRet_of_zero (h : s.sp.toNat = 0) : execRet s = .next (s.raise .stackUnderflow .none) :=
  if_pos (BitVec.eq_of_toNat_eq h)

theorem execRet_of_live {j : Fin 16} (h : s.sp.toNat = j.val + 1) : execRet s = .next (s.drop.setPc s.stack[j.val]) := by
  have h0 : s.sp ≠ 0#8 := by bv_omega
  have htop : s.top = some s.stack[j.val] := by simp [State.top, h]
  rw [execRet, if_neg h0, htop]

theorem execRet_of_gt (h : 16 < s.sp.toNat) : execRet s = .fault (.noStackEntry s.sp) := by
  have h0 : s.sp ≠ 0#8 := by bv_omega
  have htop : s.top = none := Vector.getElem?_eq_none (by omega)
  rw [execRet, if_neg h0, htop]

/-- Every sp is 0, that of a live entry, or outside the stack. -/
theorem State.sp_cases (s : State) : s.sp.toNat = 0 ∨ (∃ j : Fin 16, s.sp.toNat = j.val + 1) ∨ 16 < s.sp.toNat := by
  rcases Nat.eq_zero_or_pos s.sp.toNat with h | h
  · exact .inl h
  · rcases Nat.lt_or_ge 16 s.sp.toNat with hgt | hle
    · exact .inr (.inr hgt)
    · exact .inr (.inl ⟨⟨s.sp.toNat - 1, by omega⟩, (Nat.sub_add_cancel h).symm⟩)

end Stack

/-! ## Operations that always answer -/

theorem State.withData_answers (s done : State) (count : Nat) : ∃ t, s.withData count done = .next t := by
  unfold State.withData
  split
  · exact ⟨_, rfl⟩
  · exact ⟨_, rfl⟩

theorem State.skipOnKey_answers (s : State) (x : Reg) (pressed : Bool) : ∃ t, s.skipOnKey x pressed = .next t := by
  unfold State.skipOnKey
  split
  · exact ⟨_, rfl⟩
  · exact ⟨_, rfl⟩

theorem execLdVK_answers (x : Reg) (s : State) : ∃ t, execLdVK x s = .next t := by
  unfold execLdVK
  split
  · exact ⟨_, rfl⟩
  · exact ⟨_, rfl⟩

/-! ## Everything an instruction can do -/

/-- When an instruction faults: the condition of its row of 60_exceptions R230. -/
abbrev FaultCondition (i : Instr) (s : State) : Prop :=
  match i with
  | .call _ => 16 ≤ s.sp.toNat
  | .ret => s.sp.toNat = 0
  | .skp x | .sknp x => 16 ≤ (s.reg x).toNat
  | .drw _ _ n => n.toNat ≠ 0 ∧ 4096 < s.I.toNat + n.toNat
  | .ldB _ => 4096 < s.I.toNat + 3
  | .stRegs x | .ldRegs x => 4096 < s.I.toNat + (x.toNat + 1)
  | _ => False

/-- What an instruction leaves that completes: past its check, for the eight that can fault; for Fx0A, which never faults, at either
level of the keypad; for every other, what `exec` answers. -/
def Completes (i : Instr) (s t : State) : Prop :=
  match i with
  | .call nnn => t = (s.push (s.pc + 2#16)).setPc (zext16 nnn)
  | .ret => ∃ j : Fin 16, j.val + 1 = s.sp.toNat ∧ t = s.drop.setPc s.stack[j.val]
  | .skp x => ∃ level, s.key (s.reg x).toNat = some level ∧ t = s.skipIf (level == true)
  | .sknp x => ∃ level, s.key (s.reg x).toNat = some level ∧ t = s.skipIf (level == false)
  | .drw x y n => t = (s.drawSprite (s.reg x) (s.reg y) (s.spriteRows n)).advance
  | .ldB x => t = (s.writeBytes s.I.toNat (decimalDigits (s.reg x))).advance
  | .stRegs x => t = (s.writeBytes s.I.toNat (s.regsUpTo x)).advance
  | .ldRegs x => t = (s.loadRegs x).advance
  | .ldVK x => (∃ k, s.lowestKey = some k ∧ t = (s.setReg x (BitVec.ofNat 8 k)).advance) ∨ (s.lowestKey = none ∧ t = s)
  | _ => exec i s = .next t

theorem execLdVK_cases {x : Reg} {s t : State} (h : execLdVK x s = .next t) : Completes (.ldVK x) s t := by
  unfold execLdVK at h
  split at h <;> cases h
  · exact .inl ⟨_, ‹_›, rfl⟩
  · exact .inr ⟨‹_›, rfl⟩

/-- An instruction that answers has faulted, precisely, under its condition and with a record that fits it, or it has completed. -/
theorem exec_cases {i : Instr} {s t : State} (h : exec i s = .next t) :
    (FaultCondition i s ∧ ∃ kind info, t = s.raise kind info ∧ raisedBy kind (.instr i) = true ∧ infoFits kind info = true) ∨
    (¬ FaultCondition i s ∧ Completes i s t) := by
  cases i with
  | call nnn =>
    rcases execCall_cases h with ⟨hsp, rfl⟩ | ⟨hsp, rfl⟩
    · exact .inr ⟨Nat.not_le.2 hsp, rfl⟩
    · exact .inl ⟨hsp, _, _, rfl, rfl, rfl⟩
  | ret =>
    replace h : execRet s = .next t := h
    rcases s.sp_cases with h0 | ⟨j, hj⟩ | hgt
    · cases (execRet_of_zero h0).symm.trans h
      exact .inl ⟨h0, _, _, rfl, rfl, rfl⟩
    · cases (execRet_of_live hj).symm.trans h
      exact .inr ⟨by omega, j, hj.symm, rfl⟩
    · cases (execRet_of_gt hgt).symm.trans h
  | skp x | sknp x =>
    rcases State.skipOnKey_cases h with ⟨level, hkey, rfl⟩ | ⟨hkey, rfl⟩
    · refine .inr ⟨fun hge => ?_, level, hkey, rfl⟩
      rw [s.key_of_ge hge] at hkey
      cases hkey
    · exact .inl ⟨hkey, _, _, rfl, rfl, decide_eq_true hkey⟩
  | drw | ldB | stRegs | ldRegs =>
    rcases State.withData_cases h with ⟨rfl, hI⟩ | ⟨rfl, hcount, hI⟩
    · exact .inr ⟨by omega, rfl⟩
    · exact .inl ⟨by omega, _, _, rfl, rfl, by simp [infoFits]⟩
  | ldVK x => exact .inr ⟨id, execLdVK_cases h⟩
  | _ => exact .inr ⟨id, h⟩

/-- With sp in 0..16 (10_state R25) every instruction answers. -/
theorem exec_answers {s : State} (hsp : s.sp.toNat ≤ 16) (i : Instr) : ∃ t, exec i s = .next t := by
  cases i with
  | call nnn =>
    rcases Nat.lt_or_ge s.sp.toNat 16 with h | h
    · exact ⟨_, execCall_of_lt h nnn⟩
    · exact ⟨_, execCall_of_ge h nnn⟩
  | ret =>
    rcases s.sp_cases with h0 | ⟨j, hj⟩ | hgt
    · exact ⟨_, execRet_of_zero h0⟩
    · exact ⟨_, execRet_of_live hj⟩
    · omega
  | skp x | sknp x => exact s.skipOnKey_answers x _
  | drw | ldB | stRegs | ldRegs => exact s.withData_answers _ _
  | ldVK x => exact execLdVK_answers x s
  | _ => exact ⟨_, rfl⟩

/-- An instruction that completes leaves the run state as it was. -/
theorem Completes.run_eq {i : Instr} {s t : State} (h : Completes i s t) : t.run = s.run := by
  cases i with
  | ret =>
    obtain ⟨j, -, rfl⟩ := h
    rfl
  | skp | sknp =>
    obtain ⟨level, -, rfl⟩ := h
    rfl
  | ldVK =>
    obtain ⟨k, -, rfl⟩ | ⟨-, rfl⟩ := h <;> rfl
  | drw | ldRegs =>
    obtain rfl := h
    simp
  | _ =>
    cases h
    rfl

/-! ## The invariant (10_state R25, R30, R35) -/

/-- Settles O56: every step from a state with the invariant answers with the invariant. -/
theorem everyStepKeepsTheInvariant : Obligations.EveryStepKeepsTheInvariant := by
  intro s t hs
  have hcycle (policy : UnknownOpcodePolicy) (h : cycle policy s = .next t) : t.Inv := by
    obtain ⟨u, hu, hinv⟩ := answersInv_cycle hs policy
    cases hu.symm.trans h
    exact hinv
  exact ⟨hcycle Config.unknownOpcodePolicy, hcycle⟩

/-- Settles O55, by evaluation: `State.inv_reset`. -/
theorem invariantHoldsAtReset : Obligations.InvariantHoldsAtReset := State.inv_reset

/-! ## Faults of the execute phase (60_exceptions R230) -/

/-- An instruction of a Running machine halts it exactly under the condition of its row. -/
theorem exec_halts_iff {i : Instr} {s t : State} (hrun : s.run = .running) (h : exec i s = .next t) :
    t.run = .haltedError ↔ FaultCondition i s := by
  rcases exec_cases h with ⟨hcond, kind, info, rfl, -⟩ | ⟨hcond, hdone⟩
  · simp [hcond]
  · simp [hcond, hdone.run_eq, hrun]

/-- Settles O13: `exec` answers for every sp in 0..16, and `FaultCondition` is the table of R230. -/
theorem instructionsHaltExactlyOnTheirFaultCondition : Obligations.InstructionsHaltExactlyOnTheirFaultCondition := by
  intro i s hrun hsp
  obtain ⟨t, ht⟩ := exec_answers hsp i
  refine ⟨t, ht, (exec_halts_iff hrun ht).trans ?_⟩
  cases i with
  | call | drw | ldB | stRegs | ldRegs => omega
  | _ => exact Iff.rfl

/-! ## Which instructions write which state (10_state R37) -/

/-- Settles O15: a fault writes the run state and the record only, and an instruction that completes writes what its row lists. -/
theorem onlyTheListedInstructionsWriteEachState : Obligations.OnlyTheListedInstructionsWriteEachState := by
  unfold Obligations.OnlyTheListedInstructionsWriteEachState SameKeys SameMemory SameDisplay SameStack SameIndex SameTimers
  intro i s t h
  rcases exec_cases h with ⟨-, kind, info, rfl, -⟩ | ⟨-, hdone⟩
  · cases i <;> simp
  · cases i with
    | ret =>
      obtain ⟨j, -, rfl⟩ := hdone
      simp
    | skp | sknp =>
      obtain ⟨level, -, rfl⟩ := hdone
      simp
    | ldVK =>
      obtain ⟨k, -, rfl⟩ | ⟨-, rfl⟩ := hdone
      · simp
      · simp
    | ldRegs =>
      obtain rfl := hdone
      simp
    | rnd =>
      cases hdone
      simp [State.readByte, State.cell]
    | _ =>
      cases hdone
      simp

/-- No instruction writes `opcode` (40_cycle R92, R94). -/
theorem exec_opcode {i : Instr} {s t : State} (h : exec i s = .next t) : t.opcode = s.opcode := by
  obtain ⟨-, hop, -⟩ := onlyTheListedInstructionsWriteEachState i s t h
  exact hop

theorem State.unknownOpcode_opcode (s : State) (policy : UnknownOpcodePolicy) (w : Word) :
    (s.unknownOpcode policy w).opcode = s.opcode := by
  cases policy <;> rfl

/-- Settles O11: the fetch writes `opcode`, and neither an instruction nor an unknown word writes it again. -/
theorem opcodeHoldsTheFetchedWord : Obligations.OpcodeHoldsTheFetchedWord := by
  intro policy s t hrun hpc h
  have hfetch := State.fetch_of_lt hpc
  rw [← wordOfBytes_toNat, BitVec.toNat_inj]
  rcases cycle_cases h with ⟨hhalt, -⟩ | ⟨-, hbeyond, -⟩ | ⟨-, -, w, hw, hword⟩
  · cases hrun.symm.trans hhalt
  · omega
  · cases hfetch.symm.trans hw
    rcases hword with ⟨i, -, hi⟩ | ⟨u, -, rfl⟩
    · exact exec_opcode hi
    · exact State.unknownOpcode_opcode _ policy u

/-! ## VF (10_state R21) -/

/-- A register write and the default successor change VF only where the register is VF. -/
theorem eq_VF_of_reg_ne {s : State} {x : Reg} {v : Byte} (h : (s.setReg x v).advance.reg VF ≠ s.reg VF) : x = VF := by
  by_contra hx
  exact h (s.reg_setReg_ne x VF v (Ne.symm hx))

/-- VF is the last register. -/
theorem eq_VF_of_le {x : Reg} (h : VF.toNat ≤ x.toNat) : x = VF := by
  unfold VF at *
  bv_omega

/-- Settles O16: a fault writes no register, and an instruction that completes writes VF, its x operand, or V0..Vx. -/
theorem onlyFlagInstructionsWriteVF : Obligations.OnlyFlagInstructionsWriteVF := by
  intro i s t h hVF
  rcases exec_cases h with ⟨-, kind, info, rfl, -⟩ | ⟨-, hdone⟩
  · exact absurd rfl hVF
  · cases i with
    | addV | subV | shr | subn | shl | drw => trivial
    | ldK | addK | ldV | orV | andV | xorV | ldVDt =>
      cases hdone
      exact eq_VF_of_reg_ne hVF
    | rnd =>
      cases hdone
      exact eq_VF_of_reg_ne (s := { s with draws := s.draws + 1 }) hVF
    | ldVK =>
      obtain ⟨k, -, rfl⟩ | ⟨-, rfl⟩ := hdone
      · exact eq_VF_of_reg_ne hVF
      · exact absurd rfl hVF
    | ldRegs x =>
      obtain rfl := hdone
      by_contra hx
      exact hVF (by rw [State.advance_reg, State.reg_loadRegs, if_neg fun hle => hx (eq_VF_of_le hle)])
    | ret =>
      obtain ⟨j, -, rfl⟩ := hdone
      exact absurd rfl hVF
    | skp | sknp =>
      obtain ⟨level, -, rfl⟩ := hdone
      exact absurd rfl hVF
    | _ =>
      cases hdone
      exact absurd rfl hVF

/-! ## The successor pc (10_state R22, 40_cycle R95) -/

section Successor

variable {s : State} (hpc : s.pc.toNat ≤ 4094)

include hpc

theorem State.advance_pc_toNat {u : State} (hu : u.pc = s.pc) : u.advance.pc.toNat = s.pc.toNat + 2 := by
  rw [State.advance_pc, hu]
  bv_omega

theorem State.skipIf_pc_toNat (taken : Bool) : (s.skipIf taken).pc.toNat = s.pc.toNat + if taken then 4 else 2 := by
  rw [State.skipIf_pc]
  cases taken
  · simp
    omega
  · simp
    omega

end Successor

/-- Fx0A finds a key exactly when one is pressed. -/
theorem State.lowestKey_isSome_iff (s : State) : s.lowestKey.isSome = true ↔ ∃ k : Fin 16, s.key k.val = some true := by
  cases hk : s.lowestKey with
  | some k =>
    obtain ⟨hlt, hpressed, -⟩ := State.lowestKey_some hk
    simpa using ⟨⟨k, hlt⟩, (s.key_of_lt hlt).trans (congrArg some hpressed)⟩
  | none =>
    have hclear (k : Fin 16) : s.key k.val = some false := by rw [s.key_of_lt k.isLt, State.lowestKey_none hk k.val k.isLt]
    simp [hclear]

/-- Settles O14: an instruction that leaves the machine Running has completed, and its successor is the default, a skip's or a target. -/
theorem successorPcIsThatOfTheTable : Obligations.SuccessorPcIsThatOfTheTable := by
  intro i s t hrun hpc h ht
  rcases exec_cases h with ⟨-, kind, info, rfl, -⟩ | ⟨-, hdone⟩
  · cases ht
  · cases i with
    | jp nnn | call nnn =>
      cases hdone
      exact zext16_toNat nnn
    | ret =>
      obtain ⟨j, hj, rfl⟩ := hdone
      exact ⟨j, hj, rfl⟩
    | jpV0 nnn =>
      cases hdone
      rw [State.setPc_pc, BitVec.toNat_add, zext16_toNat, zextByte_toNat]
      omega
    | seK | seV | sneK | sneV =>
      cases hdone
      rw [State.skipIf_pc_toNat hpc]
      simp
    | skp | sknp =>
      obtain ⟨level, hkey, rfl⟩ := hdone
      rw [State.skipIf_pc_toNat hpc]
      cases level <;> simp [hkey]
    | ldVK =>
      simp only [← s.lowestKey_isSome_iff]
      obtain ⟨k, hk, rfl⟩ | ⟨hk, rfl⟩ := hdone
      · simp only [hk]
        exact State.advance_pc_toNat hpc rfl
      · simp [hk]
    | drw | ldRegs =>
      obtain rfl := hdone
      exact State.advance_pc_toNat hpc (by simp)
    | _ =>
      cases hdone
      exact State.advance_pc_toNat hpc rfl

/-! ## Call and return (42_control R130, R132) -/

/-- Settles O24: `execCall` below sp = 16 and from there on, and the entries of `push`. -/
theorem callPushesTheReturnAddress : Obligations.CallPushesTheReturnAddress := by
  intro nnn s
  refine ⟨encodedAs_raw (Laws.WordForm.call nnn), fun j hj => ⟨_, execCall_of_lt (by omega) nnn, ?_, fun k hk => ?_, ?_, ?_, ?_⟩,
    fun hfull => ⟨_, execCall_of_ge hfull nnn, s.haltedBy_raise _ _⟩⟩
  · simp [hj]
  · have hne : j.val ≠ k.val := fun h => hk (Fin.ext h.symm)
    simp [hj, hne]
  · simp
    omega
  · exact zext16_toNat nnn
  · exact ⟨fun _ _ => rfl, rfl, ⟨rfl, rfl⟩, rfl, fun _ _ => rfl, fun _ => rfl, ⟨rfl, rfl, rfl⟩, rfl⟩

/-- Settles O25: `execRet` at sp = 0 and at a live entry. -/
theorem returnPopsTheReturnAddress : Obligations.ReturnPopsTheReturnAddress := by
  refine ⟨encodedAs_raw Laws.WordForm.ret, fun s => ⟨fun h0 => ⟨_, execRet_of_zero h0, s.haltedBy_raise _ _⟩,
    fun j hj => ⟨_, execRet_of_live hj, ?_, rfl, rfl, ?_⟩⟩⟩
  · rw [State.setPc_sp, State.drop_sp]
    bv_omega
  · exact ⟨fun _ _ => rfl, rfl, ⟨rfl, rfl⟩, rfl, fun _ _ => rfl, fun _ => rfl, ⟨rfl, rfl, rfl⟩, rfl⟩

/-- Settles O26: with sp in 0..16 a return answers. -/
theorem returnStopsOnlyOutsideTheStack : Obligations.ReturnStopsOnlyOutsideTheStack := by
  refine fun s => ⟨fun ⟨f, hf⟩ => ?_, fun hgt => ⟨_, execRet_of_gt hgt⟩⟩
  by_contra hle
  obtain ⟨t, ht⟩ := exec_answers (Nat.not_lt.1 hle) .ret
  cases hf.symm.trans ht

/-! ## Construction (10_state R35, 20_memory R66) -/

/-- Unlisted addresses read as the default font already, so writing it lists nothing. -/
theorem Memory.writeBytes_fontTable : Memory.writeBytes [] fontBase fontTable.toList = [] := by decide

theorem State.construct_default (s : State) : s.construct = { State.reset with draws := s.draws } := by
  rw [State.construct, Memory.writeBytes_fontTable]
  rfl

/-- Settles O53: every field but memory by unfolding, the 80 bytes of the font by evaluation, and construction with the default FONT,
which lists nothing. -/
theorem constructZeroesAllButTheFont : Obligations.ConstructZeroesAllButTheFont := by
  refine ⟨by decide, rfl, rfl, rfl, by decide, rfl, rfl, by decide, Video.cell_dark, rfl, rfl, rfl, ?_, fun a ha => if_neg ha,
    fun policy s => ?_⟩
  · intro d row hd
    revert row
    revert d
    decide
  · rw [perform, s.construct_default]

end Sys2Proof.Machine

/-! # Proofs: memory (20_memory R50, R54, R57, R64): the canonical form, words of bytes, and stores a fetch reads -/

namespace Sys2Proof

/-! ## Words of two bytes (20_memory R54, 30_encoding R70) -/

theorem wordOfBytes_eq_ofNat (hi lo : Byte) : wordOfBytes hi lo = BitVec.ofNat 16 (256 * hi.toNat + lo.toNat) := by
  rw [← wordOfBytes_toNat, BitVec.ofNat_toNat, BitVec.setWidth_eq]

theorem decodeBytes_of_length_lt {bs : List Byte} (h : bs.length < 2) : decodeBytes bs = .truncated :=
  match bs, h with
  | [], _ => rfl
  | [_], _ => rfl

/-- Settles O6: the word `decodeBytes` makes of two bytes, written as a number, and its two short cases. -/
theorem bytesDecodeAsTheirBigEndianWord : Obligations.BytesDecodeAsTheirBigEndianWord :=
  ⟨fun hi lo rest => by rw [← wordOfBytes_eq_ofNat]; rfl, fun _ => decodeBytes_of_length_lt⟩

end Sys2Proof

namespace Sys2Proof.Machine

/-! ## The canonical form (log 1): the listed cells are those that differ from what an unlisted address reads as -/

section CanonicalForm

variable {m m' : Memory}

/-- Addresses rise, so no cell is hidden by an earlier one. -/
theorem Memory.read_of_mem (hsorted : m.Pairwise fun c d => c.1 < d.1) {c : Host.Cell} (hc : c ∈ m) : Memory.read m c.1 = c.2 := by
  induction m with
  | nil => cases hc
  | cons d rest ih =>
    obtain ⟨hhead, hrest⟩ := List.pairwise_cons.1 hsorted
    rw [Memory.read_cons]
    rcases List.mem_cons.1 hc with rfl | hc
    · exact if_pos rfl
    · rw [if_neg (hhead c hc).ne, ih hrest hc]

theorem Memory.mem_of_read_ne_blank {a : Nat} (h : Memory.read m a ≠ Memory.blank a) : (a, Memory.read m a) ∈ m := by
  induction m with
  | nil => exact absurd rfl h
  | cons d rest ih =>
    rw [Memory.read_cons] at h ⊢
    split at h
    · next hd => rw [if_pos hd, ← hd]; exact List.mem_cons_self
    · next hd => rw [if_neg hd]; exact List.mem_cons_of_mem _ (ih h)

/-- A canonical memory lists a cell exactly when it reads so and the byte is not the one of an unlisted address. -/
theorem Memory.mem_iff_read (hm : Memory.wf m) (c : Host.Cell) : c ∈ m ↔ Memory.read m c.1 = c.2 ∧ c.2 ≠ Memory.blank c.1 := by
  obtain ⟨hsorted, hcells⟩ := hm
  constructor
  · exact fun hc => ⟨Memory.read_of_mem hsorted hc, (hcells c hc).2⟩
  · rintro ⟨hread, hne⟩
    have := Memory.mem_of_read_ne_blank (hread.trans_ne hne)
    rwa [hread] at this

theorem Memory.ext_read (hm : Memory.wf m) (hm' : Memory.wf m') (h : ∀ a, Memory.read m a = Memory.read m' a) : m = m' := by
  have : Std.Irrefl fun c d : Host.Cell => c.1 < d.1 := ⟨fun _ => Nat.lt_irrefl _⟩
  have : Std.Antisymm fun c d : Host.Cell => c.1 < d.1 := ⟨fun _ _ hcd hdc => absurd hcd (Nat.lt_asymm hdc)⟩
  exact hm.1.eq_of_mem_iff hm'.1 fun c => by rw [Memory.mem_iff_read hm, Memory.mem_iff_read hm', h]

end CanonicalForm

/-- Settles O54: what a canonical memory lists is fixed by its reads, and a strictly sorted list by its members. -/
theorem equalMemoriesAreEqualData : Obligations.EqualMemoriesAreEqualData := fun _ _ => Memory.ext_read

/-! ## Stores and the next fetch (20_memory R64, 44_index_memory R196) -/

/-- A store of V0..Vx inside memory completes. -/
theorem execStRegs_of_lt {x : Reg} {s : State} (h : s.I.toNat + x.toNat < 4096) :
    execStRegs x s = .next (s.writeBytes s.I.toNat (s.regsUpTo x)).advance :=
  s.withData_ok _ (.inl h)

theorem State.readByte_writeBytes_regsUpTo (s : State) (a : Nat) {x r : Reg} (h : r.toNat ≤ x.toNat) :
    (s.writeBytes a (s.regsUpTo x)).readByte (a + r.toNat) = s.reg r := by
  have hr : r.toNat < (s.regsUpTo x).length := by rw [State.length_regsUpTo]; omega
  exact Option.some.inj ((s.getElem?_readByte_writeBytes a hr).symm.trans (s.getElem?_regsUpTo x r h))

/-- Settles O44: the store answers the state whose next two bytes are the stored registers, and its fetch reads them. -/
theorem storeIsSeenByTheNextFetch : Obligations.StoreIsSeenByTheNextFetch := by
  intro x p q s hin hpq hqx hpc
  refine ⟨_, execStRegs_of_lt hin, ?_⟩
  have hpc' : (s.writeBytes s.I.toNat (s.regsUpTo x)).advance.pc.toNat = s.I.toNat + p.toNat := hpc
  rw [State.fetch_of_lt (by omega), hpc', Nat.add_assoc, ← hpq, State.advance_readByte, State.advance_readByte,
    State.readByte_writeBytes_regsUpTo s _ (by omega), State.readByte_writeBytes_regsUpTo s _ hqx, wordOfBytes_eq_ofNat]

end Sys2Proof.Machine

/-! # Proofs: encoding (30_encoding R71 to R77): round trips, the rows of the opcode table, and the unknown words -/

namespace Sys2Proof

/-! ## Round trips (R72, R75, R76) -/

/-- Settles O1: `decode_encode` needs no premise, since operand fields are typed by their widths. -/
theorem decodeOfEncodeIsTheInstruction : Obligations.DecodeOfEncodeIsTheInstruction := fun i _ => decode_encode i

/-- Settles O2: `encode_of_decode`, since the fields decoding keeps make up the whole word. -/
theorem decodedWordsEncodeBack : Obligations.DecodedWordsEncodeBack := fun _ _ => encode_of_decode

/-- Settles O5, by evaluation. -/
theorem sampleWordsDecode : Obligations.SampleWordsDecode := by
  unfold Obligations.SampleWordsDecode
  decide

/-! ## The unknown words, family by family (R77) -/

section UnknownWords

variable {w : Word}

theorem decodeFamily0_eq_unknown : decodeFamily0 w = .unknown w ↔ w.toNat ≠ 0x00E0 ∧ w.toNat ≠ 0x00EE := by
  unfold decodeFamily0
  split
  case isTrue h => simp [h]
  case isFalse hcls =>
    split
    case isTrue h => simp [h]
    case isFalse hret =>
      rw [eq_self, true_iff]
      bv_omega

theorem decodeFamily8_eq_unknown :
    decodeFamily8 w = .unknown w ↔ w.toNat % 16 ∈ [0x8, 0x9, 0xA, 0xB, 0xC, 0xD, 0xF] := by
  rw [← nField_toNat]
  unfold decodeFamily8
  split
  case h_10 =>
    simp [← BitVec.toNat_inj] at *
    omega
  all_goals simp [*]

theorem decodeFamilyE_eq_unknown : decodeFamilyE w = .unknown w ↔ w.toNat % 256 ∉ [0x9E, 0xA1] := by
  rw [← kkField_toNat]
  unfold decodeFamilyE
  split
  case h_3 =>
    simp [← BitVec.toNat_inj] at *
    omega
  all_goals simp [*]

theorem decodeFamilyF_eq_unknown :
    decodeFamilyF w = .unknown w ↔ w.toNat % 256 ∉ [0x07, 0x0A, 0x15, 0x18, 0x1E, 0x29, 0x33, 0x55, 0x65] := by
  rw [← kkField_toNat]
  unfold decodeFamilyF
  split
  case h_10 =>
    simp [← BitVec.toNat_inj] at *
    omega
  all_goals simp [*]

theorem nField_eq_zero_iff : nField w = 0#4 ↔ w.toNat % 16 = 0 := by
  rw [← BitVec.toNat_inj, nField_toNat, BitVec.toNat_zero]

end UnknownWords

/-- Settles O4: `decode` splits on the first digit, and only six families have unknown words, each by its own lemma. -/
theorem unknownWordsAreTheListedOnes : Obligations.UnknownWordsAreTheListedOnes := by
  refine fun w => ⟨?_, fun _ => unknown_of_decode⟩
  rw [← opField_toNat]
  unfold decode
  split
  case h_1 h => simp [h, decodeFamily0_eq_unknown]
  case h_6 h | h_10 h => simp [h, nField_eq_zero_iff]
  case h_9 h => simp [h, decodeFamily8_eq_unknown]
  case h_15 h => simp [h, decodeFamilyE_eq_unknown]
  case h_16 =>
    have hF : opField w = 0xF#4 := by simp only [imp_false] at *; bv_omega
    simp [hF, decodeFamilyF_eq_unknown]
  all_goals simp [*]

/-! ## Masked comparisons, field by field (R71, R75) -/

section Masks

variable {w : Word}

theorem eq_iff_nnn {a b : Word} : a = b ↔ opField a = opField b ∧ nnnField a = nnnField b := by
  refine ⟨by rintro rfl; simp, fun ⟨hop, hnnn⟩ => ?_⟩
  rw [← encodeNnn_fields a, hop, hnnn, encodeNnn_fields]

theorem eq_iff_xkk {a b : Word} : a = b ↔ opField a = opField b ∧ xField a = xField b ∧ kkField a = kkField b := by
  refine ⟨by rintro rfl; simp, fun ⟨hop, hx, hkk⟩ => ?_⟩
  rw [← encodeXkk_fields a, hop, hx, hkk, encodeXkk_fields]

theorem eq_iff_xyn {a b : Word} :
    a = b ↔ opField a = opField b ∧ xField a = xField b ∧ yField a = yField b ∧ nField a = nField b := by
  refine ⟨by rintro rfl; simp, fun ⟨hop, hx, hy, hn⟩ => ?_⟩
  rw [← encodeXyn_fields a, hop, hx, hy, hn, encodeXyn_fields]

theorem opField_and (w k : Word) : opField (w &&& k) = opField w &&& opField k := BitVec.extractLsb'_and
theorem xField_and (w k : Word) : xField (w &&& k) = xField w &&& xField k := BitVec.extractLsb'_and
theorem yField_and (w k : Word) : yField (w &&& k) = yField w &&& yField k := BitVec.extractLsb'_and
theorem nField_and (w k : Word) : nField (w &&& k) = nField w &&& nField k := BitVec.extractLsb'_and
theorem kkField_and (w k : Word) : kkField (w &&& k) = kkField w &&& kkField k := BitVec.extractLsb'_and
theorem nnnField_and (w k : Word) : nnnField (w &&& k) = nnnField w &&& nnnField k := BitVec.extractLsb'_and

/-- Rows that fix the first digit. -/
theorem and_F000_eq_iff {op : Nibble} : w &&& 0xF000#16 = encodeNnn op 0#12 ↔ opField w = op := by
  have hop : opField 0xF000#16 = BitVec.allOnes 4 := rfl
  have hnnn : nnnField 0xF000#16 = 0#12 := rfl
  rw [eq_iff_nnn, opField_and, nnnField_and, hop, hnnn, BitVec.and_allOnes]
  simp

/-- Rows that fix the first digit and the last. -/
theorem and_F00F_eq_iff {op n : Nibble} : w &&& 0xF00F#16 = encodeXyn op 0#4 0#4 n ↔ opField w = op ∧ nField w = n := by
  have hop : opField 0xF00F#16 = BitVec.allOnes 4 := rfl
  have hx : xField 0xF00F#16 = 0#4 := rfl
  have hy : yField 0xF00F#16 = 0#4 := rfl
  have hn : nField 0xF00F#16 = BitVec.allOnes 4 := rfl
  rw [eq_iff_xyn, opField_and, xField_and, yField_and, nField_and, hop, hx, hy, hn, BitVec.and_allOnes, BitVec.and_allOnes]
  simp

/-- Rows that fix the first digit and the low byte. -/
theorem and_F0FF_eq_iff {op : Nibble} {kk : Byte} : w &&& 0xF0FF#16 = encodeXkk op 0#4 kk ↔ opField w = op ∧ kkField w = kk := by
  have hop : opField 0xF0FF#16 = BitVec.allOnes 4 := rfl
  have hx : xField 0xF0FF#16 = 0#4 := rfl
  have hkk : kkField 0xF0FF#16 = BitVec.allOnes 8 := rfl
  rw [eq_iff_xkk, opField_and, xField_and, kkField_and, hop, hx, hkk, BitVec.and_allOnes, BitVec.and_allOnes]
  simp

end Masks

/-! ## The rows of a word's family (R75) -/

/-- The match columns of the rows whose first digit is `op`. -/
def familyRows (op : Nibble) : List Word := (opcodeTable.map (·.1)).filter fun m => opField m = op

/-- The match column of the row a decode answers, as a list: an unknown word has no row. -/
def Decoded.matchWords : Decoded → List Word
  | .instr i => [i.matchWord]
  | .unknown _ => []

section Rows

variable {w : Word}

/-- Every mask keeps the whole first digit, so the rows a word matches are among those of its family; `p` says which. -/
theorem rowsMatching_eq_filter {p : Word → Bool}
    (h : ∀ row ∈ opcodeTable, opField row.1 = opField w → (w &&& row.2 = row.1 ↔ p row.1 = true)) :
    rowsMatching w = (familyRows (opField w)).filter p := by
  have hmask : ∀ row ∈ opcodeTable, opField row.2 = BitVec.allOnes 4 := List.forall_iff_forall_mem.1 (by decide)
  rw [rowsMatching, familyRows, List.filter_map, List.filter_map, List.filter_filter]
  refine congrArg (List.map _) (List.filter_congr fun row hrow => ?_)
  rw [Bool.eq_iff_iff, matchesRow, beq_iff_eq, Bool.and_eq_true, Function.comp_apply, Function.comp_apply, decide_eq_true_iff]
  refine ⟨fun hm => ?_, fun ⟨hp, hop⟩ => (h row hrow hop).2 hp⟩
  have hop : opField row.1 = opField w := by rw [← hm, opField_and, hmask row hrow, BitVec.and_allOnes]
  exact ⟨(h row hrow hop).1 hm, hop⟩

theorem rowsMatching_of_wordMask (hw : opField w = 0x0#4) : rowsMatching w = (familyRows 0x0#4).filter fun m => w = m := by
  have hrows : ∀ row ∈ opcodeTable, opField row.1 = 0x0#4 → row.2 = BitVec.allOnes 16 := List.forall_iff_forall_mem.1 (by decide)
  rw [← hw]
  refine rowsMatching_eq_filter fun row hrow hop => ?_
  rw [hrows row hrow (hop.trans hw), BitVec.and_allOnes, decide_eq_true_iff]

theorem rowsMatching_of_opMask {op : Nibble} (hop : op ∉ [0x0#4, 0x5#4, 0x8#4, 0x9#4, 0xE#4, 0xF#4]) (hw : opField w = op) :
    rowsMatching w = familyRows op := by
  have hrows : ∀ row ∈ opcodeTable, opField row.1 ∉ [0x0#4, 0x5#4, 0x8#4, 0x9#4, 0xE#4, 0xF#4] →
      row = (encodeNnn (opField row.1) 0#12, 0xF000#16) := List.forall_iff_forall_mem.1 (by decide)
  rw [rowsMatching_eq_filter (p := fun _ => true), hw, List.filter_true]
  intro row hrow hfam
  rw [hrows row hrow (hfam ▸ hw ▸ hop), and_F000_eq_iff]
  simp [hfam]

theorem rowsMatching_of_nMask {op : Nibble} (hop : op ∈ [0x5#4, 0x8#4, 0x9#4]) (hw : opField w = op) :
    rowsMatching w = (familyRows op).filter fun m => nField w = nField m := by
  have hrows : ∀ row ∈ opcodeTable, opField row.1 ∈ [0x5#4, 0x8#4, 0x9#4] →
      row = (encodeXyn (opField row.1) 0#4 0#4 (nField row.1), 0xF00F#16) := List.forall_iff_forall_mem.1 (by decide)
  rw [← hw]
  refine rowsMatching_eq_filter fun row hrow hfam => ?_
  rw [hrows row hrow (hfam ▸ hw ▸ hop), and_F00F_eq_iff]
  simp [hfam]

theorem rowsMatching_of_kkMask {op : Nibble} (hop : op ∈ [0xE#4, 0xF#4]) (hw : opField w = op) :
    rowsMatching w = (familyRows op).filter fun m => kkField w = kkField m := by
  have hrows : ∀ row ∈ opcodeTable, opField row.1 ∈ [0xE#4, 0xF#4] →
      row = (encodeXkk (opField row.1) 0#4 (kkField row.1), 0xF0FF#16) := List.forall_iff_forall_mem.1 (by decide)
  rw [← hw]
  refine rowsMatching_eq_filter fun row hrow hfam => ?_
  rw [hrows row hrow (hfam ▸ hw ▸ hop), and_F0FF_eq_iff]
  simp [hfam]

/-! ## Each family's decode answers the row its word matches -/

theorem filter_eq_nil_of_keys {n : Nat} {key : Word → BitVec n} {rows : List Word} {keys : List (BitVec n)}
    (hkeys : rows.map key = keys) (hw : key w ∉ keys) : (rows.filter fun m => key w = key m) = [] :=
  List.filter_eq_nil_iff.2 fun _ hm heq => hw (hkeys ▸ List.mem_map.2 ⟨_, hm, (of_decide_eq_true heq).symm⟩)

theorem rowsMatching_family0 (hw : opField w = 0x0#4) : rowsMatching w = (decodeFamily0 w).matchWords := by
  have hkeys : (familyRows 0x0#4).map id = [0x00E0#16, 0x00EE#16] := rfl
  rw [rowsMatching_of_wordMask hw]
  unfold decodeFamily0
  split
  case isTrue h => rw [h]; rfl
  case isFalse hcls =>
    split
    case isTrue h => rw [h]; rfl
    case isFalse hret => exact filter_eq_nil_of_keys hkeys (by simp [hcls, hret])

/-- Families 5 and 9: one row, whose last digit is 0. -/
theorem rowsMatching_of_ite {op : Nibble} {i : Instr} (hop : op ∈ [0x5#4, 0x8#4, 0x9#4]) (hw : opField w = op)
    (hkeys : (familyRows op).map nField = [0x0#4]) (hrow : ((familyRows op).filter fun m => 0x0#4 = nField m) = [i.matchWord]) :
    rowsMatching w = (if nField w = 0#4 then .instr i else .unknown w : Decoded).matchWords := by
  rw [rowsMatching_of_nMask hop hw]
  split
  case isTrue hn => rw [hn, hrow]; rfl
  case isFalse hn => exact filter_eq_nil_of_keys hkeys (by simp [hn])

theorem rowsMatching_family8 (hw : opField w = 0x8#4) : rowsMatching w = (decodeFamily8 w).matchWords := by
  have hkeys : (familyRows 0x8#4).map nField = [0x0#4, 0x1#4, 0x2#4, 0x3#4, 0x4#4, 0x5#4, 0x6#4, 0x7#4, 0xE#4] := rfl
  rw [rowsMatching_of_nMask (by decide) hw]
  unfold decodeFamily8
  split
  case h_10 =>
    simp only [imp_false] at *
    exact filter_eq_nil_of_keys hkeys (by simp [*])
  all_goals rw [‹nField w = _›]; rfl

theorem rowsMatching_familyE (hw : opField w = 0xE#4) : rowsMatching w = (decodeFamilyE w).matchWords := by
  have hkeys : (familyRows 0xE#4).map kkField = [0x9E#8, 0xA1#8] := rfl
  rw [rowsMatching_of_kkMask (by decide) hw]
  unfold decodeFamilyE
  split
  case h_3 =>
    simp only [imp_false] at *
    exact filter_eq_nil_of_keys hkeys (by simp [*])
  all_goals rw [‹kkField w = _›]; rfl

theorem rowsMatching_familyF (hw : opField w = 0xF#4) : rowsMatching w = (decodeFamilyF w).matchWords := by
  have hkeys : (familyRows 0xF#4).map kkField =
      [0x07#8, 0x0A#8, 0x15#8, 0x18#8, 0x1E#8, 0x29#8, 0x33#8, 0x55#8, 0x65#8] := rfl
  rw [rowsMatching_of_kkMask (by decide) hw]
  unfold decodeFamilyF
  split
  case h_10 =>
    simp only [imp_false] at *
    exact filter_eq_nil_of_keys hkeys (by simp [*])
  all_goals rw [‹kkField w = _›]; rfl

theorem rowsMatching_eq_matchWords (w : Word) : rowsMatching w = (decode w).matchWords := by
  unfold decode
  split <;> rename_i hw
  case h_1 => exact rowsMatching_family0 hw
  case h_6 | h_10 => exact rowsMatching_of_ite (by decide) hw rfl rfl
  case h_9 => exact rowsMatching_family8 hw
  case h_15 => exact rowsMatching_familyE hw
  case h_16 =>
    have hF : opField w = 0xF#4 := by simp only [imp_false] at *; bv_omega
    exact rowsMatching_familyF hF
  all_goals exact rowsMatching_of_opMask (by decide) hw

/-- Settles O3: the rows of a word's family that its other fields select, and `Decoded.matchWords` is the statement's list. -/
theorem eachWordMatchesOnlyItsRow : Obligations.EachWordMatchesOnlyItsRow := by
  intro w
  rw [rowsMatching_eq_matchWords]
  rfl

end Rows

end Sys2Proof

/-! # Proofs: the cycle (40_cycle R90 to R101): a step by what it fetches, what it returns, and what its execute phase reads and leaves -/

namespace Sys2Proof

/-- Two bytes that decode to an instruction make a word that does (30_encoding R70). -/
theorem decode_of_decodeBytes_instr {hi lo : Byte} {i : Instr} {rest : List Byte} (h : decodeBytes [hi, lo] = .instr i rest) :
    decode (wordOfBytes hi lo) = .instr i := by
  simp only [decodeBytes] at h
  split at h <;> cases h
  assumption

/-- Two bytes that decode to an unknown word make that word (30_encoding R77). -/
theorem decode_of_decodeBytes_unknown {hi lo : Byte} {w : Word} {rest : List Byte} (h : decodeBytes [hi, lo] = .unknown w rest) :
    wordOfBytes hi lo = w ∧ decode w = .unknown w := by
  simp only [decodeBytes] at h
  split at h <;> cases h
  next hd =>
    obtain rfl := unknown_of_decode hd
    exact ⟨rfl, hd⟩

end Sys2Proof

namespace Sys2Proof.Machine

section Steps

variable {s t : State} {w : Word} {i : Instr}

/-! ## A step by the run state and the fetch (R91 to R97) -/

theorem cycle_of_halted (hrun : s.run = .haltedError) (policy : UnknownOpcodePolicy) : cycle policy s = .next s := by
  simp only [cycle, hrun]

theorem cycle_of_fetch_none (hrun : s.run = .running) (hfetch : s.fetch = none) (policy : UnknownOpcodePolicy) :
    cycle policy s = .next (s.fatal .outOfBounds none .none) := by
  simp only [cycle, hrun, State.runStep, hfetch]

theorem cycle_of_instr (hrun : s.run = .running) (hfetch : s.fetch = some w) (hd : decode w = .instr i)
    (policy : UnknownOpcodePolicy) : cycle policy s = exec i (s.setOpcode w) := by
  simp only [cycle, hrun, State.runStep, hfetch, State.runWord, hd]

theorem cycle_of_unknown (hrun : s.run = .running) (hfetch : s.fetch = some w) (hd : decode w = .unknown w)
    (policy : UnknownOpcodePolicy) : cycle policy s = .next ((s.setOpcode w).unknownOpcode policy w) := by
  simp only [cycle, hrun, State.runStep, hfetch, State.runWord, hd]

/-! ## What a step returns (R90) -/

theorem stepResult_of_halted (s : State) (hrun : t.run = .haltedError) : stepResult s t = .halted t.fault := by
  simp only [stepResult, hrun]

theorem stepResult_of_instr (hfetch : s.fetch = some w) (hd : decode w = .instr i) (hrun : t.run = .running) :
    stepResult s t = .ok := by
  simp only [stepResult, hrun, State.unknownWord, hfetch, hd]

theorem stepResult_of_unknown (hfetch : s.fetch = some w) (hd : decode w = .unknown w) (hrun : t.run = .running) :
    stepResult s t = .reported { kind := .unknownOpcode, pc := s.pc, word := some w, info := .none } := by
  simp only [stepResult, hrun, State.unknownWord, hfetch, hd]

/-- The host's step is the cycle under the session's policy, with its result. -/
theorem perform_step {session : Session} (h : cycle session.policy s = .next t) :
    perform session .step s = .next (t, .stepped (stepResult s t)) := by
  simp only [perform, performStep, h]

end Steps

/-! ## The execute phase: faults, timers and the keypad -/

/-- What an instruction does to the timers: nothing, but for Fx15 and Fx18 (45_keys_timers R214, R215). -/
theorem exec_timers {i : Instr} {s t : State} (h : exec i s = .next t) :
    SameTimers s t ∨ ∃ x, (i = .ldDtV x ∧ t.DT = s.reg x ∧ t.ST = s.ST) ∨ (i = .ldStV x ∧ t.ST = s.reg x ∧ t.DT = s.DT) := by
  obtain ⟨-, -, -, -, -, -, htimers⟩ := onlyTheListedInstructionsWriteEachState i s t h
  cases i with
  | ldDtV x =>
    cases h
    exact .inr ⟨x, .inl ⟨rfl, rfl, rfl⟩⟩
  | ldStV x =>
    cases h
    exact .inr ⟨x, .inr ⟨rfl, rfl, rfl⟩⟩
  | _ => exact .inl htimers

/-- An instruction writes no key (60_exceptions R249). -/
theorem exec_keypad {i : Instr} {s t : State} (h : exec i s = .next t) : SameKeys s t := by
  obtain ⟨hkeys, -⟩ := onlyTheListedInstructionsWriteEachState i s t h
  exact hkeys

/-- The bounds check does not read the keypad. -/
theorem State.withData_withKeypad {s done t : State} {count : Nat} (keys : Vector Bool 16) (h : s.withData count done = .next t) :
    State.withData { s with keypad := keys } count { done with keypad := keys } = .next { t with keypad := keys } := by
  rcases State.withData_cases h with ⟨rfl, hI⟩ | ⟨rfl, hcount, hI⟩
  · exact State.withData_ok _ _ hI
  · exact State.withData_bad _ _ hcount hI

/-- Settles O17: the checks of calls, returns and data accesses read sp and I, and the rest of what these instructions read is no key. -/
theorem onlyKeyInstructionsReadTheKeypad : Obligations.OnlyKeyInstructionsReadTheKeypad := by
  intro i s t keys hskp hsknp hldVK h
  cases i with
  | skp x => exact absurd rfl (hskp x)
  | sknp x => exact absurd rfl (hsknp x)
  | ldVK x => exact absurd rfl (hldVK x)
  | call nnn =>
    rcases execCall_cases h with ⟨hsp, rfl⟩ | ⟨hsp, rfl⟩
    · exact execCall_of_lt (s := { s with keypad := keys }) hsp nnn
    · exact execCall_of_ge (s := { s with keypad := keys }) hsp nnn
  | ret =>
    replace h : execRet s = .next t := h
    rcases s.sp_cases with h0 | ⟨j, hj⟩ | hgt
    · cases (execRet_of_zero h0).symm.trans h
      exact execRet_of_zero (s := { s with keypad := keys }) h0
    · cases (execRet_of_live hj).symm.trans h
      exact execRet_of_live (s := { s with keypad := keys }) hj
    · cases (execRet_of_gt hgt).symm.trans h
  | drw | ldB | stRegs | ldRegs => exact State.withData_withKeypad keys h
  | _ =>
    cases h
    rfl

/-- Settles O12: an instruction that answers has raised a fault, which changes only the run state and the record, or has completed. -/
theorem executeFaultsArePrecise : Obligations.ExecuteFaultsArePrecise := by
  intro i s t hrun h
  rcases exec_cases h with ⟨-, kind, info, rfl, hkind, hinfo⟩ | ⟨-, hdone⟩
  · exact .inr ⟨kind, info, s.haltedBy_raise kind info, hkind, hinfo⟩
  · exact .inl (hdone.run_eq.trans hrun)

/-- Settles O48: a halted machine, a failed fetch and an unknown word move no timer and no key, and `exec_timers` is the rest. -/
theorem stepsMoveTimersOnlyByFx15AndFx18 : Obligations.StepsMoveTimersOnlyByFx15AndFx18 := by
  intro policy s t h
  rcases cycle_cases h with ⟨-, rfl⟩ | ⟨-, -, rfl⟩ | ⟨-, -, w, hw, ⟨i, hd, hi⟩ | ⟨u, -, rfl⟩⟩
  · exact ⟨rfl, .inl ⟨rfl, rfl⟩⟩
  · exact ⟨rfl, .inl ⟨rfl, rfl⟩⟩
  · have hkeys : SameKeys (s.setOpcode w) t := exec_keypad hi
    refine ⟨hkeys, (exec_timers hi).imp_right ?_⟩
    rintro ⟨x, ⟨rfl, hDT, hST⟩ | ⟨rfl, hST, hDT⟩⟩
    · exact ⟨x, w, hw, .inl ⟨hd, hDT, hST⟩⟩
    · exact ⟨x, w, hw, .inr ⟨hd, hST, hDT⟩⟩
  · cases policy <;> exact ⟨rfl, .inl ⟨rfl, rfl⟩⟩

/-! ## Steps of a Running machine by the two bytes at pc -/

/-- Settles O7: the fetch reads the two bytes as their big-endian word, and `cycle_of_instr` runs what it decodes to. -/
theorem stepRunsTheDecodedInstruction : Obligations.StepRunsTheDecodedInstruction := by
  intro s i hrun hpc hbytes
  rw [← wordOfBytes_eq_ofNat]
  have hcycle := cycle_of_instr hrun (State.fetch_of_lt hpc) (decode_of_decodeBytes_instr hbytes)
  exact ⟨hcycle, hcycle _⟩

/-- Settles O58: the step is `exec` on the fetched word, and a fault's record holds pc0 and that word. -/
theorem executedStepReturnsOkOrHalted : Obligations.ExecutedStepReturnsOkOrHalted := by
  intro session s t i hrun hpc hbytes w hexec
  obtain ⟨hcycle, -⟩ := stepRunsTheDecodedInstruction s i hrun hpc hbytes
  have hperform := perform_step ((hcycle session.policy).trans hexec)
  refine ⟨fun ht => ?_, fun ht => ?_⟩
  · have hok := stepResult_of_instr (State.fetch_of_lt hpc) (decode_of_decodeBytes_instr hbytes) ht
    exact ⟨hok, hok ▸ hperform⟩
  · have hhalted := stepResult_of_halted s ht
    rcases exec_cases hexec with ⟨-, kind, info, rfl, -⟩ | ⟨-, hdone⟩
    · exact ⟨kind, info, rfl, hhalted, hperform⟩
    · cases ht.symm.trans (hdone.run_eq.trans hrun)

/-- Settles O8, by `cycle_of_halted`. -/
theorem haltedErrorIsNeverLeftByAStep : Obligations.HaltedErrorIsNeverLeftByAStep := fun s hrun =>
  ⟨cycle_of_halted hrun _, cycle_of_halted hrun, stepResult_of_halted s hrun⟩

/-- Settles O9: without a word the step is the entry into the fault, which writes the run state and the record only. -/
theorem fetchBeyondMemoryHalts : Obligations.FetchBeyondMemoryHalts := by
  intro s hrun hpc
  have hcycle := cycle_of_fetch_none hrun (State.fetch_of_ge hpc)
  exact ⟨_, hcycle _, hcycle, rfl, rfl, stepResult_of_halted s rfl, rfl, rfl, fun _ _ => rfl, rfl, ⟨rfl, rfl⟩, ⟨rfl, rfl⟩, rfl,
    fun _ _ => rfl, fun _ => rfl, rfl⟩

/-- Settles O10: under Halt the step raises a fault of the word now in `opcode`, under Skip it takes the default successor. -/
theorem unknownOpcodeUnderEachPolicy : Obligations.UnknownOpcodeUnderEachPolicy := by
  refine ⟨fun _ => rfl, fun s w hrun hpc hbytes => ?_⟩
  obtain ⟨hword, hd⟩ := decode_of_decodeBytes_unknown hbytes
  have hfetch : s.fetch = some w := hword ▸ State.fetch_of_lt hpc
  have hcycle := cycle_of_unknown hrun hfetch hd
  refine ⟨⟨_, hcycle .halt, rfl, State.haltedBy_raise _ _ _, stepResult_of_halted s rfl⟩,
    ⟨_, hcycle .skip, rfl, hrun, ?_, stepResult_of_unknown hfetch hd hrun⟩⟩
  exact ⟨fun _ _ => rfl, rfl, ⟨rfl, rfl⟩, ⟨rfl, rfl⟩, rfl, fun _ _ => rfl, fun _ => rfl, ⟨rfl, rfl, rfl⟩, rfl⟩

/-! ## The random byte (43_alu R172) -/

/-- Settles O36: `exec` is `State.random` of the model's next free byte, and `State.random` masks every byte. -/
theorem randomByteIsMasked : Obligations.RandomByteIsMasked := by
  intro x kk s
  refine (and_iff_right_of_imp fun hrandom => hrandom (Config.rand s.draws)).2 fun rand => ?_
  refine ⟨_, s.random_eq rand x kk, fun k => ?_, fun hkk => ?_, rfl, rfl, fun r hr => ?_, rfl, ⟨rfl, rfl⟩, ⟨rfl, rfl⟩, rfl,
    fun _ _ => rfl, fun _ => rfl, ⟨rfl, rfl, rfl⟩⟩
  · simp
  · simp [hkk]
  · exact State.reg_setReg_ne _ x r _ (List.ne_of_not_mem_cons hr)

end Sys2Proof.Machine

/-! # Proofs: the display (41_display R110 to R113) and data accesses beyond memory (44_index_memory R194): cells, collisions, two draws -/

namespace Sys2Proof.Machine

theorem flag_eq_one_iff {b : Bool} : flag b = 1#8 ↔ b = true := by cases b <;> decide

theorem flag_eq_zero_iff {b : Bool} : flag b = 0#8 ↔ b = false := by cases b <;> decide

/-! ## The sprite at I (R110) -/

section Sprite

variable {s : State} {n : Nibble} {px : Fin 64} {py : Fin 32}

/-- The pixels the model draws are the cells a sprite covers. -/
theorem mem_spritePixels_spriteRows {x0 y0 : Nat} :
    (px, py) ∈ spritePixels x0 y0 (s.spriteRows n) ↔ SpriteCovers s x0 y0 n.toNat px py := by
  rw [mem_spritePixels, SpriteCovers]
  refine exists_congr fun row => ?_
  rw [State.getElem?_spriteRows]
  by_cases hrow : row < n.toNat
  · simp [hrow, spriteBit]
  · simp [hrow]

/-- A sprite has at most 15 rows, so that it never overlaps itself (R112). -/
theorem nodup_spritePixels_spriteRows (s : State) (n : Nibble) (x0 y0 : Nat) : (spritePixels x0 y0 (s.spriteRows n)).Nodup := by
  refine nodup_spritePixels x0 y0 ?_
  rw [State.length_spriteRows]
  omega

/-- The cells a sprite covers depend on I and the sprite's bytes only. -/
theorem spriteCovers_congr {u : State} {k x0 y0 : Nat} (hI : u.I = s.I)
    (hrows : ∀ row, row < k → u.readByte (s.I.toNat + row) = s.readByte (s.I.toNat + row)) :
    SpriteCovers u x0 y0 k px py ↔ SpriteCovers s x0 y0 k px py := by
  refine exists_congr fun row => and_congr_right fun hrow => ?_
  rw [hI, hrows row hrow]

/-! ## Drawing it (R112) -/

variable {x0 y0 : Byte}

theorem State.cell_drawSprite_of_covers (h : SpriteCovers s x0.toNat y0.toNat n.toNat px py) :
    (s.drawSprite x0 y0 (s.spriteRows n)).cell px py = !(s.cell px py) :=
  (Video.cell_draw (nodup_spritePixels_spriteRows s n _ _) s.video false px py).trans (if_pos (mem_spritePixels_spriteRows.2 h))

theorem State.cell_drawSprite_of_not_covers (h : ¬ SpriteCovers s x0.toNat y0.toNat n.toNat px py) :
    (s.drawSprite x0 y0 (s.spriteRows n)).cell px py = s.cell px py :=
  (Video.cell_draw (nodup_spritePixels_spriteRows s n _ _) s.video false px py).trans (if_neg (mt mem_spritePixels_spriteRows.1 h))

/-- A draw collides exactly when a cell under the sprite was set. -/
theorem State.collision_drawSprite (s : State) (n : Nibble) (x0 y0 : Nat) :
    (Video.draw s.video false (spritePixels x0 y0 (s.spriteRows n))).2 = true ↔
      ∃ px py, SpriteCovers s x0 y0 n.toNat px py ∧ s.cell px py = true := by
  simp [Video.collision_draw (nodup_spritePixels_spriteRows s n x0 y0), mem_spritePixels_spriteRows, State.cell]

end Sprite

/-- A draw inside memory, or of no rows, completes. -/
theorem execDrw_of_le {n : Nibble} {s : State} (h : s.I.toNat + n.toNat ≤ 4096 ∨ n = 0#4) (x y : Reg) :
    execDrw x y n s = .next (s.drawSprite (s.reg x) (s.reg y) (s.spriteRows n)).advance :=
  s.withData_ok _ (h.imp_right (congrArg BitVec.toNat))

/-- Settles O19: the pixels drawn are distinct and are the cells the sprite covers, so each of them is toggled once. -/
theorem drawXorsTheSprite : Obligations.DrawXorsTheSprite := by
  intro x y n s hin
  have hVF : (s.drawSprite (s.reg x) (s.reg y) (s.spriteRows n)).advance.reg VF = flag _ := State.reg_setReg_same _ _ _
  refine ⟨_, execDrw_of_le hin x y, fun px py => ⟨State.cell_drawSprite_of_covers, State.cell_drawSprite_of_not_covers⟩,
    fun hset => ?_, fun hclear => ?_, rfl, fun r hr => ?_, rfl, ⟨rfl, rfl⟩, ⟨rfl, rfl⟩, rfl, fun _ => rfl, ⟨rfl, rfl, rfl⟩, rfl⟩
  · rw [hVF, flag_eq_one_iff, State.collision_drawSprite]
    exact hset
  · rw [hVF, flag_eq_zero_iff, ← Bool.not_eq_true, State.collision_drawSprite]
    exact hclear
  · exact State.reg_setReg_ne _ VF r _ (List.ne_of_not_mem_cons hr)

/-! ## Two draws (R113) -/

/-- DRW by its cells and its flag alone, as both draws of R113 use it. -/
theorem exec_drw {n : Nibble} {s : State} (h : s.I.toNat + n.toNat ≤ 4096 ∨ n = 0#4) (x y : Reg) :
    ∃ t, exec (.drw x y n) s = .next t
      ∧ (∀ px py, SpriteCovers s (s.reg x).toNat (s.reg y).toNat n.toNat px py → t.cell px py = !(s.cell px py))
      ∧ (∀ px py, ¬ SpriteCovers s (s.reg x).toNat (s.reg y).toNat n.toNat px py → t.cell px py = s.cell px py)
      ∧ (t.reg VF = 1#8 ↔ ∃ px py, SpriteCovers s (s.reg x).toNat (s.reg y).toNat n.toNat px py ∧ s.cell px py = true) := by
  obtain ⟨t, ht, hcell, hset, hclear, -⟩ := drawXorsTheSprite x y n s h
  refine ⟨t, ht, fun px py => (hcell px py).1, fun px py => (hcell px py).2, fun hVF => ?_, hset⟩
  by_contra hnone
  exact absurd (hVF.symm.trans (hclear hnone)) (by decide)

/-- Settles O20: the second draw covers the same cells, and finds each of them inverted by the first. -/
theorem drawTwiceRestoresTheDisplay : Obligations.DrawTwiceRestoresTheDisplay := by
  intro x y n s _ _ hin
  obtain ⟨t, ht, htoggled, hkept, hVF⟩ := exec_drw hin x y
  refine ⟨t, ht, hVF, fun u hI hx hy hcell hrows => ?_⟩
  obtain ⟨v, hv, htoggled', hkept', hVF'⟩ := exec_drw (hI.symm ▸ hin) x y
  simp only [hx, hy, spriteCovers_congr hI hrows, hcell] at htoggled' hkept' hVF'
  refine ⟨v, hv, fun px py => ?_, hVF'.trans (exists₂_congr fun px py => and_congr_right fun hcov => ?_)⟩
  · by_cases hcov : SpriteCovers s (s.reg x).toNat (s.reg y).toNat n.toNat px py
    · rw [htoggled' px py hcov, htoggled px py hcov, Bool.not_not]
    · rw [hkept' px py hcov, hkept px py hcov]
  · rw [htoggled px py hcov, Bool.not_eq_true']

/-- Every cell lit, I at the glyph of the digit 0, whose first row is 0xF0. -/
def litScreen : State := { State.reset with I := 0x050#16, video := Vector.replicate 64 (Vector.replicate 32 true) }

theorem litScreen_cell (px : Fin 64) (py : Fin 32) : litScreen.cell px py = true := by
  simp [litScreen, State.cell, Video.cell]

/-- Refutes O21: on a screen with every cell lit the sprite has a 1 bit, and the second draw, which collides only over a cell that was
clear before the first, collides with nothing. -/
theorem not_secondDrawAlwaysCollides : ¬ Obligations.SecondDrawAlwaysCollides := by
  intro hlaw
  have hin : litScreen.I.toNat + (1#4).toNat ≤ 4096 := by decide
  have hcovers : SpriteCovers litScreen 0 0 1 0 0 := ⟨0, by decide, 0, by decide, by decide, rfl, rfl⟩
  obtain ⟨t, ht, -, -, -, -, hregs, hI, -, -, -, hmem, -⟩ := drawXorsTheSprite 0#4 0#4 1#4 litScreen (.inl hin)
  obtain ⟨_, ht', -, hsecond⟩ := drawTwiceRestoresTheDisplay 0#4 0#4 1#4 litScreen (by decide) (by decide) (.inl hin)
  obtain rfl := Host.Outcome.next.inj (ht.symm.trans ht')
  have hV0 := hregs 0#4 (by decide)
  obtain ⟨v, hv, -, hVF⟩ := hsecond t hI hV0 hV0 (fun _ _ => rfl) fun _ _ => hmem _
  have hcollides := (hlaw 0#4 0#4 1#4 litScreen t v (by decide) (by decide) hin ht hv).2 ⟨0, 0, hcovers⟩
  obtain ⟨px, py, -, hclear⟩ := hVF.1 hcollides
  exact absurd ((litScreen_cell px py).symm.trans hclear) (by decide)

/-! ## Clearing the display (R111) -/

/-- Settles O18: `execCls` writes the dark grid and the default successor. -/
theorem clearScreenDarkensEveryCell : Obligations.ClearScreenDarkensEveryCell :=
  ⟨encodedAs_raw Laws.WordForm.cls, fun _ => ⟨_, rfl, Video.cell_dark, rfl, fun _ _ => rfl, rfl, ⟨rfl, rfl⟩, ⟨rfl, rfl⟩, rfl,
    fun _ => rfl, ⟨rfl, rfl, rfl⟩, rfl⟩⟩

/-! ## Data accesses beyond memory (44_index_memory R194, 60_exceptions R234) -/

/-- A data access that reaches 4096 halts the machine, whatever it would have left. -/
theorem State.withData_halts (s done : State) {count : Nat} (h0 : count ≠ 0) (h : 4096 < s.I.toNat + count) :
    ∃ t, s.withData count done = .next t ∧ HaltedBy .dataOutOfBounds (.address (max s.I.toNat 4096)) s t :=
  ⟨_, s.withData_bad done h0 h, s.haltedBy_raise _ _⟩

/-- Settles O42: all four instructions are `withData` on their number of bytes. -/
theorem dataBeyondMemoryHalts : Obligations.DataBeyondMemoryHalts := by
  intro x y n s
  refine ⟨fun h => s.withData_halts _ (by decide) (by omega), fun h => ?_, fun hn h => ?_⟩
  · exact ⟨s.withData_halts _ (Nat.succ_ne_zero _) (by omega), s.withData_halts _ (Nat.succ_ne_zero _) (by omega)⟩
  · exact s.withData_halts _ (fun h0 => hn (BitVec.eq_of_toNat_eq h0)) h

end Sys2Proof.Machine

/-! # Proofs: control transfer (42_control R131 to R139): jumps, skips, and a call with its return -/

namespace Sys2Proof.Machine

/-! ## Shared facts -/

/-- A Running machine's step by the two bytes at pc: `exec` on the state with the instruction's own word in `opcode` (40_cycle R92, R94). -/
theorem cycle_of_decodeBytes_instr {s : State} {i : Instr} (hrun : s.run = .running) (hpc : s.pc.toNat + 1 < 4096)
    (hbytes : decodeBytes [s.readByte s.pc.toNat, s.readByte (s.pc.toNat + 1)] = .instr i []) (policy : UnknownOpcodePolicy) :
    cycle policy s = exec i (s.setOpcode (encode i)) := by
  have hd := decode_of_decodeBytes_instr hbytes
  rw [encode_of_decode hd]
  exact cycle_of_instr hrun (State.fetch_of_lt hpc) hd policy

/-- The frame of every jump and skip: each of them is one `setPc`. -/
theorem State.onlyRegs_setPc (s : State) (target : Word) : OnlyRegs [] s (s.setPc target) :=
  ⟨fun _ _ => rfl, rfl, ⟨rfl, rfl⟩, ⟨rfl, rfl⟩, rfl, fun _ _ => rfl, fun _ => rfl, ⟨rfl, rfl, rfl⟩, rfl⟩

/-- The target of JP V0 does not wrap (R137): it is at most 0x10FE. -/
theorem toNat_zext16_add_zextByte (nnn : Addr12) (b : Byte) : (zext16 nnn + zextByte b).toNat = nnn.toNat + b.toNat := by
  rw [BitVec.toNat_add, zext16_toNat, zextByte_toNat]
  omega

theorem State.skipIf_beq_pc (s : State) (a b : Byte) :
    (s.skipIf (a == b)).pc = if a.toNat = b.toNat then s.pc + 4#16 else s.pc + 2#16 := by
  simp only [State.skipIf_pc, beq_iff_eq, BitVec.toNat_inj]

theorem State.skipIf_bne_pc (s : State) (a b : Byte) :
    (s.skipIf (a != b)).pc = if a.toNat = b.toNat then s.pc + 2#16 else s.pc + 4#16 := by
  simp only [State.skipIf_pc, bne_iff_ne, ne_eq, ite_not, BitVec.toNat_inj]

/-! ## Jumps (R131, R137) -/

/-- Settles O22: JP is `setPc` of the zero-extended target. -/
theorem jumpSetsPc : Obligations.JumpSetsPc := fun nnn s =>
  ⟨encodedAs_raw (Laws.WordForm.jp nnn), _, rfl, zext16_toNat nnn, s.onlyRegs_setPc _⟩

/-- Settles O23: JP V0 is `setPc` of a sum that does not wrap. -/
theorem jumpWithOffsetAddsV0 : Obligations.JumpWithOffsetAddsV0 := fun nnn s =>
  ⟨encodedAs_raw (Laws.WordForm.jpV0 nnn), _, rfl, toNat_zext16_add_zextByte nnn _, s.onlyRegs_setPc _⟩

/-- Settles O30: the step runs the jump on the state with its word in `opcode`, and the target is the pc. -/
theorem selfJumpIsAFixedPoint : Obligations.SelfJumpIsAFixedPoint := by
  intro s nnn hrun hpc hself hbytes
  have htarget : zext16 nnn = s.pc := BitVec.eq_of_toNat_eq ((zext16_toNat nnn).trans hself.symm)
  have hstep : step s = .next { s with opcode := encode (.jp nnn) } := by
    calc step s = .next ((s.setOpcode (encode (.jp nnn))).setPc (zext16 nnn)) := cycle_of_decodeBytes_instr hrun hpc hbytes _
      _ = .next { s with opcode := encode (.jp nnn) } := by rw [htarget]; rfl
  exact ⟨hstep, fun hop => by rw [hstep, ← hop]⟩

/-! ## Skips (R133 to R136, R138) -/

/-- Settles O27: SE is `skipIf` of equality, SNE of its negation. -/
theorem immediateSkipsCompareARegister : Obligations.ImmediateSkipsCompareARegister := fun x kk s =>
  ⟨by simpa only [Instr.raw, Raw.word, Nat.mul_comm] using encodedAs_raw (Laws.WordForm.seK x kk),
    by simpa only [Instr.raw, Raw.word, Nat.mul_comm] using encodedAs_raw (Laws.WordForm.sneK x kk),
    ⟨_, rfl, s.skipIf_beq_pc _ _, s.onlyRegs_setPc _⟩, ⟨_, rfl, s.skipIf_bne_pc _ _, s.onlyRegs_setPc _⟩⟩

/-- Settles O28: as O27, with V[y] for the immediate. -/
theorem registerSkipsCompareTwoRegisters : Obligations.RegisterSkipsCompareTwoRegisters := fun _ _ s =>
  ⟨⟨_, rfl, s.skipIf_beq_pc _ _, s.onlyRegs_setPc _⟩, ⟨_, rfl, s.skipIf_bne_pc _ _, s.onlyRegs_setPc _⟩⟩

/-! ## Call and return (R139) -/

/-- Settles O29: the call (R132) pushes pc0 + 2 at entry sp and touches no byte, so that the next step fetches the return, which (R130)
pops that entry. -/
theorem callThenReturnComesBack : Obligations.CallThenReturnComesBack := by
  intro policy s nnn hrun hpc hbytes hsp htarget hhi hlo
  obtain ⟨-, hcall, -⟩ := callPushesTheReturnAddress nnn (s.setOpcode (encode (.call nnn)))
  obtain ⟨t, ht, htop, hbelow, htsp, htpc, htregs, htI, -, -, -, htmem, ⟨-, htrun, -⟩, -⟩ := hcall ⟨s.sp.toNat, hsp⟩ rfl
  have hret : decodeBytes [t.readByte t.pc.toNat, t.readByte (t.pc.toNat + 1)] = .instr .ret [] := by
    rw [htpc, htmem, htmem, State.setOpcode_readByte, State.setOpcode_readByte, hhi, hlo]
    rfl
  obtain ⟨-, hpop⟩ := returnPopsTheReturnAddress
  obtain ⟨-, hlive⟩ := hpop (t.setOpcode (encode .ret))
  obtain ⟨u, hu, husp, hupc, hustack, huregs, huI, -, -, -, humem, ⟨-, hurun, -⟩, -⟩ := hlive ⟨s.sp.toNat, hsp⟩ htsp
  refine ⟨t, u, (cycle_of_decodeBytes_instr hrun hpc hbytes policy).trans ht, htpc,
    (cycle_of_decodeBytes_instr (htrun.trans hrun) (htpc.symm ▸ htarget) hret policy).trans hu, ?_, BitVec.eq_of_toNat_eq husp,
    fun j hj => ?_, hurun.trans (htrun.trans hrun), fun r hr => (huregs r hr).trans (htregs r hr), huI.trans htI,
    fun a => (humem a).trans (htmem a)⟩
  · have hback : u.pc = s.pc + 2#16 := hupc.trans htop
    rw [hback]
    bv_omega
  · have hkept : t.stack[j.val] = s.stack[j.val] := hbelow j (Fin.ne_of_lt hj)
    simpa only [hustack, State.setOpcode_stack] using hkept

end Sys2Proof.Machine

/-! # Proofs: registers and arithmetic (43_alu R160 to R171): results, and results that follow a flag -/

namespace Sys2Proof.Machine

/-! ## Flags as numbers (10_state R24) -/

theorem flag_decide_toNat (p : Prop) [Decidable p] : (flag (decide p)).toNat = if p then 1 else 0 := by
  by_cases h : p <;> simp [flag, h]

theorem carryFlag_toNat (a b : Byte) : (carryFlag a b).toNat = if 255 < a.toNat + b.toNat then 1 else 0 := flag_decide_toNat _

theorem noBorrowFlag_toNat (a b : Byte) : (noBorrowFlag a b).toNat = if b.toNat ≤ a.toNat then 1 else 0 := flag_decide_toNat _

theorem lowBitFlag_toNat (a : Byte) : (lowBitFlag a).toNat = a.toNat % 2 := by
  rw [lowBitFlag, BitVec.toNat_and]
  exact Nat.and_one_is_mod _

theorem highBitFlag_toNat (a : Byte) : (highBitFlag a).toNat = a.toNat / 128 := by
  have hshift : (a >>> 7).toNat = a.toNat / 128 := by rw [BitVec.toNat_ushiftRight, Nat.shiftRight_eq_div_pow]
  calc (highBitFlag a).toNat = (a >>> 7).toNat % 2 := lowBitFlag_toNat (a >>> 7)
    _ = a.toNat / 128 := by omega

/-! ## Writing a result -/

section Results

variable (s : State) (x : Reg)

/-- The frame of every instruction that writes V[x] alone. -/
theorem State.onlyRegs_setReg_advance (v : Byte) : OnlyRegs [x] s (s.setReg x v).advance :=
  ⟨fun r hr => s.reg_setReg_ne x r v (List.ne_of_not_mem_cons hr), rfl, ⟨rfl, rfl⟩, ⟨rfl, rfl⟩, rfl, fun _ _ => rfl, fun _ => rfl,
    ⟨rfl, rfl, rfl⟩, rfl⟩

theorem State.reg_setReg_advance (v : Byte) : (s.setReg x v).advance.reg x = v := s.reg_setReg_same x v

/-- A result that follows a flag (R160): the flag stands in VF unless the result took its place. -/
theorem State.result_after_flag {f v : Byte} {m n : Nat} (hv : v.toNat = m) (hf : f.toNat = n) :
    ∃ t, (s.setReg VF f).result x v = .next t ∧ (t.reg x).toNat = m ∧ (x ≠ VF → (t.reg VF).toNat = n) ∧ t.pc = s.pc + 2#16
      ∧ OnlyRegs [x, VF] s t := by
  obtain ⟨hregs, hrest⟩ := (s.setReg VF f).onlyRegs_setReg_advance x v
  refine ⟨_, rfl, by rw [State.reg_setReg_advance, hv], fun hx => ?_, rfl, fun r hr => ?_, hrest⟩
  · rw [hregs VF (by simpa using Ne.symm hx), State.reg_setReg_same, hf]
  · obtain ⟨hrx, hrVF⟩ : r ≠ x ∧ r ≠ VF := by simpa using hr
    rw [hregs r (by simpa using hrx), State.reg_setReg_ne _ _ _ _ hrVF]

end Results

/-! ## Operands read after the flag is written (R160) -/

theorem State.reg_after_flag_toNat (s : State) {f : Byte} {n : Nat} (hf : f.toNat = n) (r : Reg) :
    ((s.setReg VF f).reg r).toNat = if r = VF then n else (s.reg r).toNat := by
  rw [State.reg_setReg, apply_ite BitVec.toNat, hf]

theorem State.sub_after_flag_toNat (s : State) {f : Byte} {n : Nat} (hf : f.toNat = n) (p q : Reg) :
    ((s.setReg VF f).reg p - (s.setReg VF f).reg q).toNat =
      ((if p = VF then n else (s.reg p).toNat) + 256 - (if q = VF then n else (s.reg q).toNat)) % 256 := by
  rw [← s.reg_after_flag_toNat hf p, ← s.reg_after_flag_toNat hf q, BitVec.toNat_sub]
  omega

theorem State.ushiftRight_after_flag_toNat (s : State) (x : Reg) :
    ((s.setReg VF (lowBitFlag (s.reg x))).reg x >>> 1).toNat = if x = VF then 0 else (s.reg x).toNat / 2 := by
  rw [BitVec.toNat_ushiftRight, Nat.shiftRight_eq_div_pow, s.reg_after_flag_toNat (lowBitFlag_toNat _)]
  split <;> omega

theorem State.shiftLeft_after_flag_toNat (s : State) (x : Reg) :
    ((s.setReg VF (highBitFlag (s.reg x))).reg x <<< 1).toNat =
      if x = VF then 2 * ((s.reg x).toNat / 128) else (2 * (s.reg x).toNat) % 256 := by
  rw [BitVec.toNat_shiftLeft, Nat.shiftLeft_eq, s.reg_after_flag_toNat (highBitFlag_toNat _)]
  split <;> omega

/-! ## Instructions that write no flag (R161 to R166) -/

/-- The encoding line of a rule of family 8 (R75): the word 0x8xy0 with the sub-operation in its last digit. -/
theorem encodedAs_family8 {i : Instr} {x y : Reg} {sub : Nat} (hform : Laws.WordForm.Statement i)
    (hraw : i.raw = .xy 0x8 x.toNat y.toNat sub) : EncodedAs i (0x8000 + sub + 0x100 * x.toNat + 0x10 * y.toNat) := by
  have hword : i.raw.word = 0x8000 + sub + 0x100 * x.toNat + 0x10 * y.toNat := by
    rw [hraw, Raw.word]
    omega
  exact hword ▸ encodedAs_raw hform

/-- Settles O31: both are `State.result`, of kk and of the 8-bit sum. -/
theorem immediateLoadAndAdd : Obligations.ImmediateLoadAndAdd := fun x kk s =>
  ⟨by simpa only [Instr.raw, Raw.word, Nat.mul_comm] using encodedAs_raw (Laws.WordForm.ldK x kk),
    by simpa only [Instr.raw, Raw.word, Nat.mul_comm] using encodedAs_raw (Laws.WordForm.addK x kk),
    ⟨_, rfl, by rw [State.reg_setReg_advance], rfl, s.onlyRegs_setReg_advance x _⟩,
    ⟨_, rfl, by rw [State.reg_setReg_advance, BitVec.toNat_add], rfl, s.onlyRegs_setReg_advance x _⟩⟩

/-- Settles O32: each is `State.result` of the bit-vector operation, whose bits the library gives. -/
theorem copyAndBitwiseOperations : Obligations.CopyAndBitwiseOperations := fun x y s =>
  ⟨encodedAs_family8 (sub := 0) (Laws.WordForm.ldV x y) rfl, encodedAs_family8 (sub := 1) (Laws.WordForm.orV x y) rfl,
    encodedAs_family8 (sub := 2) (Laws.WordForm.andV x y) rfl, encodedAs_family8 (sub := 3) (Laws.WordForm.xorV x y) rfl,
    ⟨_, rfl, fun _ => by rw [State.reg_setReg_advance], rfl, s.onlyRegs_setReg_advance x _⟩,
    ⟨_, rfl, fun _ => by rw [State.reg_setReg_advance, BitVec.getLsbD_or], rfl, s.onlyRegs_setReg_advance x _⟩,
    ⟨_, rfl, fun _ => by rw [State.reg_setReg_advance, BitVec.getLsbD_and], rfl, s.onlyRegs_setReg_advance x _⟩,
    ⟨_, rfl, fun _ => by rw [State.reg_setReg_advance, BitVec.getLsbD_xor], rfl, s.onlyRegs_setReg_advance x _⟩⟩

/-! ## Instructions that write VF before their result (R167 to R171) -/

/-- Settles O33: the sum is taken before the carry is written, so that no operand reads as the flag. -/
theorem addSetsTheCarry : Obligations.AddSetsTheCarry := fun x _ s =>
  s.result_after_flag x (BitVec.toNat_add _ _) (carryFlag_toNat _ _)

/-- Settles O34: one subtraction after a flag, its operands in either order. -/
theorem subtractSetsNoBorrow : Obligations.SubtractSetsNoBorrow := fun x y s =>
  have hSub := noBorrowFlag_toNat (s.reg x) (s.reg y)
  have hSubn := noBorrowFlag_toNat (s.reg y) (s.reg x)
  ⟨s.result_after_flag x (s.sub_after_flag_toNat hSub x y) hSub, s.result_after_flag x (s.sub_after_flag_toNat hSubn y x) hSubn⟩

/-- Settles O35: one shift after the flag it moves out. -/
theorem shiftsMoveOneBitIntoVF : Obligations.ShiftsMoveOneBitIntoVF := fun x _ s =>
  ⟨s.result_after_flag x (s.ushiftRight_after_flag_toNat x) (lowBitFlag_toNat _),
    s.result_after_flag x (s.shiftLeft_after_flag_toNat x) (highBitFlag_toNat _)⟩

end Sys2Proof.Machine

/-! # Proofs: the index register and memory (44_index_memory R190 to R198): results in I, stores at I, loads from I -/

namespace Sys2Proof.Machine

/-! ## Results in I (R191 to R193) -/

/-- The frame of every instruction that writes I alone. -/
theorem State.result_in_I (s : State) {v : Word} {m : Nat} (hv : v.toNat = m) :
    ∃ t, (.next (s.setI v).advance : Host.Outcome State Fault Refusal) = .next t ∧ t.I.toNat = m ∧ t.pc = s.pc + 2#16
      ∧ SameRegsBut [] s t ∧ SameStack s t ∧ SameTimers s t ∧ SameKeys s t ∧ SameDisplay s t ∧ SameMemory s t ∧ SameStatus s t
      ∧ SameDraws s t :=
  ⟨_, rfl, hv, rfl, fun _ _ => rfl, ⟨rfl, rfl⟩, ⟨rfl, rfl⟩, rfl, fun _ _ => rfl, fun _ => rfl, ⟨rfl, rfl, rfl⟩, rfl⟩

/-- The encoding line of a rule of family F (R75): the word 0xFx00 with the sub-operation in its low byte. -/
theorem encodedAs_familyF {i : Instr} {x : Reg} {sub : Nat} (hform : Laws.WordForm.Statement i)
    (hraw : i.raw = .xs 0xF x.toNat sub) : EncodedAs i (0xF000 + sub + 0x100 * x.toNat) := by
  have hword : i.raw.word = 0xF000 + sub + 0x100 * x.toNat := by
    rw [hraw, Raw.word]
    omega
  exact hword ▸ encodedAs_raw hform

theorem toNat_add_zextByte (v : Word) (b : Byte) : (v + zextByte b).toNat = (v.toNat + b.toNat) % 65536 := by
  rw [BitVec.toNat_add, zextByte_toNat]

/-- Settles O37: I takes the zero-extended address, and the 16-bit sum. -/
theorem indexLoadAndAdd : Obligations.IndexLoadAndAdd := fun s =>
  ⟨fun nnn => ⟨encodedAs_raw (Laws.WordForm.ldI nnn), s.result_in_I (zext16_toNat nnn)⟩,
    fun x => ⟨encodedAs_familyF (sub := 0x1E) (Laws.WordForm.addI x) rfl, s.result_in_I (toNat_add_zextByte _ _)⟩⟩

/-- Settles O38: a glyph's address is at most 0x54B, so it does not wrap. -/
theorem fontAddressOfADigit : Obligations.FontAddressOfADigit := fun _ s => s.result_in_I (glyphAddress_toNat _)

/-! ## Stores at I (R195, R196) -/

/-- The frame of the two stores (R190): the n bytes written, pc, and nothing else; I too is unchanged. -/
theorem State.frame_writeBytes_advance (s : State) (a : Nat) {n : Nat} {bs : List Byte} (hn : bs.length = n) :
    SameMemoryOutside a n s (s.writeBytes a bs).advance ∧ (s.writeBytes a bs).advance.pc = s.pc + 2#16
      ∧ SameRegsBut [] s (s.writeBytes a bs).advance ∧ SameIndex s (s.writeBytes a bs).advance
      ∧ SameStack s (s.writeBytes a bs).advance ∧ SameTimers s (s.writeBytes a bs).advance
      ∧ SameKeys s (s.writeBytes a bs).advance ∧ SameDisplay s (s.writeBytes a bs).advance
      ∧ SameStatus s (s.writeBytes a bs).advance ∧ SameDraws s (s.writeBytes a bs).advance :=
  ⟨hn ▸ s.sameMemoryOutside_writeBytes a bs, rfl, fun _ _ => rfl, rfl, ⟨rfl, rfl⟩, ⟨rfl, rfl⟩, rfl, fun _ _ => rfl,
    ⟨rfl, rfl, rfl⟩, rfl⟩

/-- The digits a byte is stored as; each is below 10, so none loses bits in its byte. -/
theorem decimalDigits_toNat (v : Byte) :
    (decimalDigits v).map BitVec.toNat = [v.toNat / 100, v.toNat / 10 % 10, v.toNat % 10] := by
  have hdigit {d : Nat} (hd : d < 10) : (BitVec.ofNat 8 d).toNat = d := Nat.mod_eq_of_lt (by omega)
  simp only [decimalDigits, List.map_cons, List.map_nil, hdigit (show v.toNat / 100 < 10 by omega),
    hdigit (Nat.mod_lt _ (by decide : 0 < 10))]

/-- What a written byte reads as, as a number. -/
theorem State.readByte_writeBytes_toNat (s : State) (a : Nat) {bs : List Byte} {k d : Nat} (hd : (bs.map BitVec.toNat)[k]? = some d) :
    ((s.writeBytes a bs).readByte (a + k)).toNat = d := by
  obtain ⟨b, hb, rfl⟩ : ∃ b, bs[k]? = some b ∧ b.toNat = d := by simpa using hd
  have hk : k < bs.length := (List.getElem?_eq_some_iff.1 hb).1
  rw [Option.some.inj ((s.getElem?_readByte_writeBytes a hk).symm.trans hb)]

/-- Settles O39: the store of three bytes completes, and they are the digits. -/
theorem decimalDigitsAreStored : Obligations.DecimalDigitsAreStored := by
  intro x s hin
  have hread (k d : Nat) (hd : [(s.reg x).toNat / 100, (s.reg x).toNat / 10 % 10, (s.reg x).toNat % 10][k]? = some d) :
      ((s.writeBytes s.I.toNat (decimalDigits (s.reg x))).readByte (s.I.toNat + k)).toNat = d :=
    s.readByte_writeBytes_toNat _ (by rw [decimalDigits_toNat, hd])
  exact ⟨_, s.withData_ok _ (.inl hin), hread 0 _ rfl, hread 1 _ rfl, hread 2 _ rfl, s.frame_writeBytes_advance _ rfl⟩

/-- Settles O40: the store of x + 1 bytes completes, and they are the registers. -/
theorem registersAreStored : Obligations.RegistersAreStored := fun x s hin =>
  ⟨_, execStRegs_of_lt hin, fun _ hr => s.readByte_writeBytes_regsUpTo _ hr,
    s.frame_writeBytes_advance _ (s.length_regsUpTo x)⟩

/-! ## Loads from I (R197, R198) -/

/-- A load of V0..Vx from inside memory completes. -/
theorem execLdRegs_of_lt {x : Reg} {s : State} (h : s.I.toNat + x.toNat < 4096) :
    execLdRegs x s = .next (s.loadRegs x).advance :=
  s.withData_ok _ (.inl h)

/-- The frame of the load (R190): pc, and nothing beside the registers; I too is unchanged. -/
theorem State.frame_loadRegs_advance (s : State) (x : Reg) :
    (s.loadRegs x).advance.pc = s.pc + 2#16 ∧ SameIndex s (s.loadRegs x).advance ∧ SameStack s (s.loadRegs x).advance
      ∧ SameTimers s (s.loadRegs x).advance ∧ SameKeys s (s.loadRegs x).advance ∧ SameDisplay s (s.loadRegs x).advance
      ∧ SameMemory s (s.loadRegs x).advance ∧ SameStatus s (s.loadRegs x).advance ∧ SameDraws s (s.loadRegs x).advance := by
  simp [SameIndex, SameStack, SameTimers, SameKeys, SameDisplay, SameMemory, SameStatus, SameDraws]

/-- Settles O41: the load of x + 1 bytes completes, and `loadRegs` gives each register its byte or leaves it. -/
theorem registersAreLoaded : Obligations.RegistersAreLoaded := by
  intro x s hin
  refine ⟨_, execLdRegs_of_lt hin, fun r hr => ?_, fun r hr => ?_, s.frame_loadRegs_advance x⟩
  · rw [State.advance_reg, State.reg_loadRegs, if_pos hr]
  · rw [State.advance_reg, State.reg_loadRegs, if_neg (Nat.not_le.2 hr)]

/-- Settles O43: the load (O41) takes each register from the byte the store (O40) left for it. -/
theorem storeThenLoadRestoresRegisters : Obligations.StoreThenLoadRestoresRegisters := by
  intro x s hin
  obtain ⟨t, ht, hstored, -⟩ := registersAreStored x s hin
  refine ⟨t, ht, fun u hI hkept => ?_⟩
  obtain ⟨v, hv, hloaded, -⟩ := registersAreLoaded x u (by rwa [hI])
  refine ⟨v, hv, fun r hr => ?_⟩
  calc v.reg r = u.readByte (s.I.toNat + r.toNat) := by rw [hloaded r hr, hI]
    _ = t.readByte (s.I.toNat + r.toNat) := hkept _ hr
    _ = s.reg r := hstored r hr

end Sys2Proof.Machine

/-! # Proofs: the keypad and the timers (45_keys_timers R210 to R216): skips on a key, the wait for a key, and the bytes timers move -/

namespace Sys2Proof.Machine

/-! ## Skips on a key (R210, R211, R216) -/

section KeySkips

variable {s : State} {x : Reg} (pressed : Bool)

theorem State.skipOnKey_of_lt {k : Fin 16} (hk : (s.reg x).toNat = k.val) :
    s.skipOnKey x pressed = .next (s.skipIf (s.keypad[k.val] == pressed)) := by
  rw [State.skipOnKey, hk, s.key_of_lt k.isLt]

theorem State.skipOnKey_of_ge (hk : 16 ≤ (s.reg x).toNat) :
    s.skipOnKey x pressed = .next (s.raise .badKeyIndex (.key (s.reg x))) := by
  rw [State.skipOnKey, s.key_of_ge hk]

end KeySkips

theorem State.skipIf_beq_true_pc (s : State) (level : Bool) :
    (s.skipIf (level == true)).pc = if level = true then s.pc + 4#16 else s.pc + 2#16 := by
  rw [State.skipIf_pc, beq_true]

theorem State.skipIf_beq_false_pc (s : State) (level : Bool) :
    (s.skipIf (level == false)).pc = if level = true then s.pc + 2#16 else s.pc + 4#16 := by
  cases level <;> rfl

/-- Settles O45: both are `State.skipOnKey`, which reads a key below 16 and raises the fault from 16 on. -/
theorem keySkipsReadTheKey : Obligations.KeySkipsReadTheKey := fun _ s =>
  ⟨fun _ hk => ⟨⟨_, State.skipOnKey_of_lt true hk, s.skipIf_beq_true_pc _, s.onlyRegs_setPc _⟩,
      ⟨_, State.skipOnKey_of_lt false hk, s.skipIf_beq_false_pc _, s.onlyRegs_setPc _⟩⟩,
    fun hk => ⟨⟨_, State.skipOnKey_of_ge true hk, s.haltedBy_raise _ _⟩,
      ⟨_, State.skipOnKey_of_ge false hk, s.haltedBy_raise _ _⟩⟩⟩

/-! ## The wait for a key (R213) -/

theorem execLdVK_of_some {s : State} {k : Nat} (h : s.lowestKey = some k) (x : Reg) :
    execLdVK x s = .next (s.setReg x (BitVec.ofNat 8 k)).advance := by
  rw [execLdVK, h]

theorem execLdVK_of_none {s : State} (h : s.lowestKey = none) (x : Reg) : execLdVK x s = .next s := by
  rw [execLdVK, h]
  rfl

/-- Settles O46: the index of the lowest pressed key fits in a byte, and with no key `execLdVK` answers the state itself. -/
theorem waitForKeyHoldsOrTakesTheLowest : Obligations.WaitForKeyHoldsOrTakesTheLowest := by
  intro x s
  refine ⟨fun k hpressed hbelow => ?_, fun hclear => ?_⟩
  · have hlowest : s.lowestKey = some k.val :=
      State.lowestKey_eq_some k.isLt hpressed fun j hj => hbelow ⟨j, hj.trans k.isLt⟩ hj
    refine ⟨_, execLdVK_of_some hlowest x, ?_, rfl, s.onlyRegs_setReg_advance x _⟩
    rw [State.reg_setReg_advance]
    exact Nat.mod_eq_of_lt (by omega)
  · exact execLdVK_of_none (State.lowestKey_eq_none fun k hk => hclear ⟨k, hk⟩) x

/-! ## The timers (R212, R214, R215) -/

/-- The frame of the two writes to a timer: pc, and nothing beside the timers. -/
theorem State.frame_withTimers_advance (s : State) (dt st : Byte) :
    let t := State.advance { s with DT := dt, ST := st }
    t.pc = s.pc + 2#16 ∧ SameRegsBut [] s t ∧ SameIndex s t ∧ SameStack s t ∧ SameKeys s t ∧ SameDisplay s t ∧ SameMemory s t
      ∧ SameStatus s t ∧ SameDraws s t :=
  ⟨rfl, fun _ _ => rfl, rfl, ⟨rfl, rfl⟩, rfl, fun _ _ => rfl, fun _ => rfl, ⟨rfl, rfl, rfl⟩, rfl⟩

/-- Settles O47: the read is a write of V[x]; each of the others writes its own timer and leaves the other as it was. -/
theorem timerInstructionsMoveBytes : Obligations.TimerInstructionsMoveBytes := fun x s =>
  ⟨encodedAs_familyF (sub := 0x07) (Laws.WordForm.ldVDt x) rfl, encodedAs_familyF (sub := 0x15) (Laws.WordForm.ldDtV x) rfl,
    encodedAs_familyF (sub := 0x18) (Laws.WordForm.ldStV x) rfl,
    ⟨_, rfl, s.reg_setReg_advance x _, rfl, s.onlyRegs_setReg_advance x _⟩,
    ⟨_, rfl, rfl, rfl, s.frame_withTimers_advance (s.reg x) s.ST⟩,
    ⟨_, rfl, rfl, rfl, s.frame_withTimers_advance s.DT (s.reg x)⟩⟩

end Sys2Proof.Machine

/-! # Proofs: the host operations (60_exceptions R245 to R254): timer ticks, the key and pixel ports, the sound output and the dump -/

namespace Sys2Proof.Machine

/-! ## Timer ticks (R245, R247) -/

theorem countDown_toNat (t : Byte) : (countDown t).toNat = t.toNat - 1 := by
  unfold countDown
  split <;> bv_omega

/-- Settles O49: by induction on the number of ticks. The later ticks leave all but the timers as the first left it, so putting both
timers back undoes them all. -/
theorem timersCountDownToZero : Obligations.TimersCountDownToZero := by
  intro session k s
  induction k generalizing s with
  | zero => exact ⟨s, rfl, rfl, rfl, rfl⟩
  | succ k ih =>
    obtain ⟨t, hrun, hDT, hST, hframe⟩ := ih s.tickTimers
    rw [State.tickTimers_DT, countDown_toNat, Nat.sub_sub, Nat.add_comm] at hDT
    rw [State.tickTimers_ST, countDown_toNat, Nat.sub_sub, Nat.add_comm] at hST
    exact ⟨t, hrun, hDT, hST, congrArg (fun u => (u.setDT s.DT).setST s.ST) hframe⟩

/-! ## The key and pixel ports (R248, R250) -/

section Ports

variable (s : State) {k x y : Nat} (pressed : Bool)

theorem performSetKey_of_lt (hk : k < 16) :
    performSetKey k pressed s = ({ s with keypad := s.keypad.setIfInBounds k pressed }, .done) := by
  rw [performSetKey, State.setKey, if_pos hk]

theorem performSetKey_of_ge (hk : 16 ≤ k) : performSetKey k pressed s = (s, .refused) := by
  rw [performSetKey, State.setKey, if_neg (Nat.not_lt.2 hk)]

theorem performPixel_of_lt (hx : x < 64) (hy : y < 32) : performPixel x y s = (s, .bit (s.cell ⟨x, hx⟩ ⟨y, hy⟩)) := by
  rw [performPixel, State.pixel, dif_pos ⟨hx, hy⟩]

theorem performPixel_of_ge (h : 64 ≤ x ∨ 32 ≤ y) : performPixel x y s = (s, .refused) := by
  rw [performPixel, State.pixel, dif_neg (by omega)]

end Ports

/-- Settles O50: inside its range each port does its one access, and outside it answers the state itself. -/
theorem keyAndPixelPorts : Obligations.KeyAndPixelPorts := fun _ s _ _ _ pressed =>
  ⟨fun hk => ⟨_, congrArg _ (performSetKey_of_lt s pressed hk), Vector.getElem_setIfInBounds_self hk,
      fun j hj => Vector.getElem_setIfInBounds_ne j.isLt hj.symm, rfl⟩,
    fun hk => congrArg _ (performSetKey_of_ge s pressed hk),
    fun hx hy => congrArg _ (performPixel_of_lt s hx hy),
    fun h => congrArg _ (performPixel_of_ge s h)⟩

/-! ## The sound output and the dump (R252, R254) -/

/-- The sound output is on exactly while ST > 0. -/
theorem State.tone_eq_true_iff (s : State) : s.tone = true ↔ s.ST ≠ 0#8 := by
  rw [State.tone, decide_eq_true_iff]
  bv_omega

/-- Settles O51: the read answers ST, and `State.tone` is on while ST is not 0. -/
theorem soundOutputIsOnWhileSTIsPositive : Obligations.SoundOutputIsOnWhileSTIsPositive := fun _ s =>
  ⟨rfl, s.tone_eq_true_iff⟩

/-- Settles O59: `State.dump` copies each of these fields. -/
theorem dumpReturnsTheRegisters : Obligations.DumpReturnsTheRegisters := fun _ s =>
  ⟨s.dump, rfl, fun _ => rfl, rfl, rfl, rfl, rfl, rfl, rfl⟩

end Sys2Proof.Machine
